-- ==== Sys2Proof/Word.lean ====
section
/-! DEFINITION. The word types of the block: 32-bit register patterns, bytes of the frame buffer, 40-bit commands. -/

namespace Sys2Proof

/-- A 32-bit register pattern. It has no signedness of its own (`00_scope.md` R9); the intent and wheel-speed
registers read it as IEEE-754 binary32 (R4). -/
abbrev Word := BitVec 32

/-- A byte of the frame buffer or of a CRC input (`20_memory.md` R50). -/
abbrev Byte := BitVec 8

/-- A command word as it is presented on `cmd[39:0]` (`30_encoding.md` R70). -/
abbrev CommandWord := BitVec 40

end Sys2Proof
end

