-- ==== Sys2Proof/Machine/Operands.lean ====
section
/-! DEFINITION. The fields of a command word, the forms of its immediate operand, and the bytes of a word. -/

namespace Sys2Proof.Machine

/-- `op = cmd[39:32]` (`30_encoding.md` R70). -/
def opField (w : CommandWord) : BitVec 8 :=
  w.extractLsb' 32 8

/-- `imm = cmd[31:0]` (`30_encoding.md` R70), and the operand of use `word`: all of it, as a raw pattern (R72). -/
def immWord (w : CommandWord) : Word :=
  w.extractLsb' 0 32

/-- The operand of use `byte`: `imm[7:0]`; `imm[31:8]` are ignored (`30_encoding.md` R72, R75). -/
def immByte (w : CommandWord) : Byte :=
  w.extractLsb' 0 8

/-- The command word `{op, imm}` of format `C` (`30_encoding.md` R70). -/
def commandWord (op : BitVec 8) (imm : Word) : CommandWord :=
  op ++ imm

/-- Byte `j` of a word: `v[8j+7:8j]` (`00_scope.md` R9, R11). -/
def byteOf (v : Word) (j : Fin 4) : Byte :=
  v.extractLsb' (8 * j.val) 8

/-- The word `{b3, b2, b1, b0}`: four bytes assembled little-endian (`00_scope.md` R11 MemRead). -/
def wordOf (b0 b1 b2 b3 : Byte) : Word :=
  b3 ++ b2 ++ b1 ++ b0

end Sys2Proof.Machine
end

