-- ==== Sys2Proof/Syntax.lean ====
section
/-! DEFINITION. The fourteen commands of SAR20-CFK version 1, one constructor per row of spec/opcode_table.json
(`30_encoding.md` R73). A constructor holds what the command takes of `imm` (R72) and nothing of the bits it ignores
(R75). A reserved opcode is no command of the table; the decoder names it (Decode.lean). -/

namespace Sys2Proof

/-- A command of the block. -/
inductive Instr where
  /-- `NOP` (`40_register_load.md` R100) -/
  | nop
  /-- `STOP` (`44_sequencing.md` R201) -/
  | stop
  /-- `CRC.INIT` (`41_crc.md` R127) -/
  | crcInit
  /-- `CRC.BYTE imm`, with `imm[7:0]` (`41_crc.md` R128) -/
  | crcByte (byte : Byte)
  /-- `CRC.WORD imm` (`41_crc.md` R129) -/
  | crcWord (word : Word)
  /-- `LD.X imm` (`40_register_load.md` R101) -/
  | ldX (imm : Word)
  /-- `LD.Y imm` (`40_register_load.md` R102) -/
  | ldY (imm : Word)
  /-- `LD.W imm` (`40_register_load.md` R103) -/
  | ldW (imm : Word)
  /-- `LD.S0 imm` (`40_register_load.md` R104) -/
  | ldS0 (imm : Word)
  /-- `LD.S1 imm` (`40_register_load.md` R105) -/
  | ldS1 (imm : Word)
  /-- `LD.S2 imm` (`40_register_load.md` R106) -/
  | ldS2 (imm : Word)
  /-- `KIN` (`43_kinematics.md` R170) -/
  | kin
  /-- `PACK` (`42_frame_pack.md` R151) -/
  | pack
  /-- `TICK` (`44_sequencing.md` R200) -/
  | tick
  deriving DecidableEq, Repr

end Sys2Proof
end

