-- ==== Sys2Proof/Decode.lean ====
section
/-! DEFINITION. The decoder, total on every 40-bit word (`30_encoding.md` R74), the encoder, and the opcode table as
data (R73). -/

namespace Sys2Proof

open Sys2Proof.Machine

/-- Why a word is no command of the opcode table. It is an answer of the decoder and no stop of the machine: the block
accepts the word and executes a no-op (`30_encoding.md` R76). -/
inductive DecodeError where
  /-- `op` is one of the 242 reserved values (`30_encoding.md` R76). -/
  | reservedOpcode (op : BitVec 8)
  deriving DecidableEq, Repr

/-- The command a word is, by its `op` alone (`30_encoding.md` R73, R74). -/
def decode (w : CommandWord) : Except DecodeError Instr :=
  match opField w with
  | 0x00#8 => .ok .nop
  | 0x01#8 => .ok .stop
  | 0x10#8 => .ok .crcInit
  | 0x11#8 => .ok (.crcByte (immByte w))
  | 0x12#8 => .ok (.crcWord (immWord w))
  | 0x20#8 => .ok (.ldX (immWord w))
  | 0x21#8 => .ok (.ldY (immWord w))
  | 0x22#8 => .ok (.ldW (immWord w))
  | 0x28#8 => .ok (.ldS0 (immWord w))
  | 0x29#8 => .ok (.ldS1 (immWord w))
  | 0x2A#8 => .ok (.ldS2 (immWord w))
  | 0x30#8 => .ok .kin
  | 0x31#8 => .ok .pack
  | 0x32#8 => .ok .tick
  | op => .error (.reservedOpcode op)

/-- The opcode of a command (`30_encoding.md` R73). -/
def Instr.opcode : Instr → BitVec 8
  | .nop => 0x00#8
  | .stop => 0x01#8
  | .crcInit => 0x10#8
  | .crcByte _ => 0x11#8
  | .crcWord _ => 0x12#8
  | .ldX _ => 0x20#8
  | .ldY _ => 0x21#8
  | .ldW _ => 0x22#8
  | .ldS0 _ => 0x28#8
  | .ldS1 _ => 0x29#8
  | .ldS2 _ => 0x2A#8
  | .kin => 0x30#8
  | .pack => 0x31#8
  | .tick => 0x32#8

/-- The immediate an assembler writes for a command, with zero in every ignored bit (`30_encoding.md` R75, R78). -/
def Instr.immediate : Instr → Word
  | .nop => 0#32
  | .stop => 0#32
  | .crcInit => 0#32
  | .crcByte b => b.setWidth 32
  | .crcWord v => v
  | .ldX v => v
  | .ldY v => v
  | .ldW v => v
  | .ldS0 v => v
  | .ldS1 v => v
  | .ldS2 v => v
  | .kin => 0#32
  | .pack => 0#32
  | .tick => 0#32

/-- The word of a command (`30_encoding.md` R70, R73, R78). -/
def encode (i : Instr) : CommandWord :=
  commandWord i.opcode i.immediate

/-- How a command uses its immediate (`30_encoding.md` R72). -/
inductive ImmUse where
  | word
  | byte
  | none
  deriving DecidableEq, Repr

/-- The bits of a command word that a use takes beside `op` (`30_encoding.md` R72, R75). -/
def ImmUse.takenMask : ImmUse → CommandWord
  | .word => 0x00FFFFFFFF#40
  | .byte => 0x00000000FF#40
  | .none => 0x0000000000#40

/-- A row of the opcode map (`30_encoding.md` R73). -/
structure OpcodeRow where
  mnemonic : String
  matchWord : CommandWord
  mask : CommandWord
  use : ImmUse
  deriving DecidableEq, Repr

/-- The opcode map of `30_encoding.md` R73, row by row, in its order. -/
def opcodeTable : List OpcodeRow := [
  ⟨"NOP",      0x0000000000#40, 0xFF00000000#40, .none⟩,
  ⟨"STOP",     0x0100000000#40, 0xFF00000000#40, .none⟩,
  ⟨"CRC.INIT", 0x1000000000#40, 0xFF00000000#40, .none⟩,
  ⟨"CRC.BYTE", 0x1100000000#40, 0xFF00000000#40, .byte⟩,
  ⟨"CRC.WORD", 0x1200000000#40, 0xFF00000000#40, .word⟩,
  ⟨"LD.X",     0x2000000000#40, 0xFF00000000#40, .word⟩,
  ⟨"LD.Y",     0x2100000000#40, 0xFF00000000#40, .word⟩,
  ⟨"LD.W",     0x2200000000#40, 0xFF00000000#40, .word⟩,
  ⟨"LD.S0",    0x2800000000#40, 0xFF00000000#40, .word⟩,
  ⟨"LD.S1",    0x2900000000#40, 0xFF00000000#40, .word⟩,
  ⟨"LD.S2",    0x2A00000000#40, 0xFF00000000#40, .word⟩,
  ⟨"KIN",      0x3000000000#40, 0xFF00000000#40, .none⟩,
  ⟨"PACK",     0x3100000000#40, 0xFF00000000#40, .none⟩,
  ⟨"TICK",     0x3200000000#40, 0xFF00000000#40, .none⟩]

/-- The row of the opcode map a command belongs to, by its mnemonic (`30_encoding.md` R73). -/
def Instr.mnemonic : Instr → String
  | .nop => "NOP"
  | .stop => "STOP"
  | .crcInit => "CRC.INIT"
  | .crcByte _ => "CRC.BYTE"
  | .crcWord _ => "CRC.WORD"
  | .ldX _ => "LD.X"
  | .ldY _ => "LD.Y"
  | .ldW _ => "LD.W"
  | .ldS0 _ => "LD.S0"
  | .ldS1 _ => "LD.S1"
  | .ldS2 _ => "LD.S2"
  | .kin => "KIN"
  | .pack => "PACK"
  | .tick => "TICK"

/-- The instruction the decoder reads from the `nbits` bits `w`, numbered as spec/opcode_table.json numbers them: one
40-bit number, bit 0 its least significant bit, `op` in bits 39:32 (`30_encoding.md` R73). The command arrives in
parallel and has no byte order (R70; log entry 13). -/
def decodeTableWord (nbits w : Nat) : Option Instr :=
  let v := w % 2 ^ nbits
  if v < 2 ^ 40 then (decode (BitVec.ofNat 40 v)).toOption else none

end Sys2Proof
end

