-- ==== Sys2Proof/Config.lean ====
section
/-! DEFINITION. What a model holds as configuration and not as semantics (the end of `92_eei_decisions.md`): the types
of the CRC parameters, the geometry, the coefficient ROM and the KIN datapath, and the open parameters. The values the
block takes stand in Machine/Parameters.lean and, for the datapath, in Machine/Kin.lean. -/

namespace Sys2Proof

/-- The parameters of a CRC variant (`00_scope.md` R3, R8, `41_crc.md` R121). `CRC_WIDTH` is the width of `Word`, the
type of the register. -/
structure CrcParams where
  /-- `CRC_POLY` -/
  poly : Word
  /-- `CRC_INIT` -/
  init : Word
  /-- `CRC_REFIN`: each byte is fed least significant bit first -/
  refIn : Bool
  /-- `CRC_REFOUT`: the register's bits are reversed in the result -/
  refOut : Bool
  /-- `CRC_XOROUT`: XORed into the result -/
  xorOut : Word
  deriving DecidableEq, Repr

/-- The document's RobotGeometry, as far as the transform reads it (`00_scope.md` R8). -/
structure Geometry where
  /-- `WHEEL_RADIUS`, metres -/
  wheelRadius : Rat
  /-- `WHEEL_FROM_CENTER`, metres -/
  wheelFromCenter : Rat
  /-- `THETA[0..2]`, the mounting angles in degrees, by wheel index (`90_conflicts.md` C2) -/
  theta : Vector Nat 3
  deriving DecidableEq, Repr

/-- The coefficient ROM: binary32 patterns, constant, read by `KIN` and `TICK` only (`10_state.md` R25). -/
structure Rom where
  kx : Vector Word 3
  ky : Vector Word 3
  kw : Word
  deriving DecidableEq, Repr

/-- A WheelSpeedVector: the three binary32 patterns of one kinematics result (`00_scope.md` R15). -/
structure Speeds where
  s0 : Word
  s1 : Word
  s2 : Word
  deriving DecidableEq, Repr

/-- The configuration of the KIN unit: the geometry, the ROM made from it, and the datapath as a total function of the
ROM and the three input patterns (`43_kinematics.md` R171, `92_eei_decisions.md` D12, D14; log entry 9). -/
structure KinConfig where
  geometry : Geometry
  rom : Rom
  datapath : Rom → Word → Word → Word → Speeds

/-- `kin32(X, Y, W)` of a configuration (`43_kinematics.md` R171). -/
def KinConfig.kin32 (c : KinConfig) (x y w : Word) : Speeds :=
  c.datapath c.rom x y w

/-- The two values the open parameter `RESET_KIND` can have (`00_scope.md` R8, `92_eei_decisions.md` D28). -/
inductive ResetKind where
  | synchronous
  | asynchronous
  deriving DecidableEq, Repr, Inhabited

/-- `LAT(op)`: the latency of a command in clock cycles, open and finite (`70_reset_and_hazards.md` R255, D21).
No rule depends on it and nothing reads it (log entry 2). -/
opaque Config.lat : BitVec 8 → Nat

/-- `F_CLK`: the clock frequency in Hz, open (`00_scope.md` R8, D21). Nothing reads it (log entry 2). -/
opaque Config.fClk : Rat

/-- `TICK_PERIOD`: the host's interval between `TICK` commands in seconds, open (`00_scope.md` R8, D21). Nothing reads
it (log entry 2). -/
opaque Config.tickPeriod : Rat

/-- `RESET_KIND`: whether `rst` is sampled on a clock edge or acts at once, open (`70_reset_and_hazards.md` R240, D28).
Nothing reads it (log entry 3). -/
opaque Config.resetKind : ResetKind

end Sys2Proof
end

