-- ==== Sys2Proof/Machine/Parameters.lean ====
section
/-! DEFINITION. The values the block takes for the parameters of `00_scope.md` R8 and the ROM of `10_state.md` R25. -/

namespace Sys2Proof.Machine

/-- CRC-32/MPEG-2 (`00_scope.md` R3, R8). -/
def crcParams : CrcParams :=
  { poly := 0x04C11DB7#32, init := 0xFFFFFFFF#32, refIn := false, refOut := false, xorOut := 0x00000000#32 }

/-- The fixed geometry (`00_scope.md` R8; the assignment of angles to wheels: `90_conflicts.md` C2). -/
def referenceGeometry : Geometry :=
  { wheelRadius := 175 / 10000
    wheelFromCenter := 51 / 1000
    theta := #v[120, 240, 0] }

/-- The coefficient ROM (`10_state.md` R25). -/
def referenceRom : Rom :=
  { kx := #v[0xC091835A#32, 0xC091835A#32, 0x4111835A#32]
    ky := #v[0x40FC093C#32, 0xC0FC093C#32, 0x00000000#32]
    kw := 0x3EED7A35#32 }

end Sys2Proof.Machine
end

