-- ==== Sys2Proof/Machine/State.lean ====
section
/-! DEFINITION. The state of the block (Block, `10_state.md` R20), the samples of its input ports still to come (R30;
log entry 1), the two together (State), the reset values (R33, `70_reset_and_hazards.md` R240), and the reasons a step
could stop. -/

namespace Sys2Proof.Machine

/-- An offset into the frame buffer: 0 to 15 and nothing else (`20_memory.md` R50, R56). -/
abbrev Offset := Fin 16

/-- The contents of the frame buffer, as (offset, byte) cells in one canonical form (`Memory.wf`; log entry 7). -/
abbrev Memory := List Host.Cell

/-- What an unlisted offset reads as: the reset contents of the frame buffer (`10_state.md` R33). -/
def Memory.unlisted : Byte := 0x00#8

/-- The canonical form: offsets strictly rising, each one of the sixteen, and no cell equal to what an unlisted offset
reads as. -/
abbrev Memory.wf (m : Memory) : Prop :=
  m.Pairwise (fun c d => c.1 < d.1) ∧ ∀ c ∈ m, c.1 < 16 ∧ c.2 ≠ Memory.unlisted

/-- One sample of the input ports, taken when the block is between commands (`10_state.md` R30, log entry 1). -/
structure PortSample where
  /-- `rst` -/
  rst : Bool
  /-- `cmd_valid` -/
  cmdValid : Bool
  /-- `cmd[39:0]` -/
  cmd : CommandWord
  deriving DecidableEq, Repr

/-- The whole architectural state of the block: the nine fields of `10_state.md` R20 and no other. -/
structure Block where
  /-- `X`: intent, translational velocity x (R21) -/
  x : Word
  /-- `Y`: intent, translational velocity y (R21) -/
  y : Word
  /-- `W`: intent, angular velocity (R21) -/
  w : Word
  /-- `S0`: speed of wheel index 0 (R22) -/
  s0 : Word
  /-- `S1`: speed of wheel index 1 (R22) -/
  s1 : Word
  /-- `S2`: speed of wheel index 2 (R22) -/
  s2 : Word
  /-- `CRC`: the shift register of the CRC unit (R24) -/
  crc : Word
  /-- `F[0..15]`: the frame buffer (R26) -/
  frame : Memory
  /-- `FV`: a frame was built since reset (R28) -/
  fv : Bool
  deriving DecidableEq, Repr

/-- What a step acts on: the block, and beside it the model's own field, which is no state of the block. -/
structure State extends Block where
  /-- The model's own: what the host has still to present on the input ports, oldest first (log entry 1). -/
  inputs : List PortSample
  deriving DecidableEq, Repr

/-- The block after reset: every piece of state at the value of `10_state.md` R33 (the same in
`70_reset_and_hazards.md` R240). -/
def Block.reset : Block :=
  { x := 0x00000000#32, y := 0x00000000#32, w := 0x00000000#32
    s0 := 0x00000000#32, s1 := 0x00000000#32, s2 := 0x00000000#32
    crc := 0xFFFFFFFF#32
    frame := []
    fv := false }

/-- The block after reset, and nothing presented on the ports (log entry 1). -/
def State.reset : State :=
  { Block.reset with inputs := [] }

/-- The faults of the block: none. It has no exception, interrupt or trap of any kind, every command is total on every
state, and a step "has no fault outcome" (`60_exceptions.md` R210, R211). No constructor, so nobody raises one, which
is safe: nothing can be hidden behind a fault (log entry 8). -/
inductive Fault : Type
  deriving DecidableEq, Repr

/-- The refusals of the block: none of its own (`60_exceptions.md` R211). -/
inductive Refusal where
  /-- Raised only by an arm of `exec` whose instruction has no meaning yet, by its mnemonic; there is no such arm.
  Safe: a run stops there and nothing can be proved of what would follow. -/
  | notModelled (mnemonic : String)
  deriving DecidableEq, Repr

/-- What a meaning answers. -/
abbrev Result := Host.Outcome State Fault Refusal

end Sys2Proof.Machine
end

