-- ==== Sys2Proof/Machine/Flags.lean ====
section
/-! DEFINITION. The flags. `FV` is the only one (`10_state.md` R28): there are no condition codes, no carry, overflow,
zero or sign flag and no floating-point exception flags (`43_kinematics.md` R178). -/

namespace Sys2Proof.Machine

/-- `FV <- v`. -/
def State.setFv (s : State) (v : Bool) : State := { s with fv := v }

/-- `FV <- 1`, done by `PACK`, `TICK` and `STOP`; only reset clears it (`10_state.md` R28). -/
def State.raiseFv (s : State) : State := s.setFv true

end Sys2Proof.Machine
end

