-- ==== Sys2Proof/Machine/Ops.lean ====
section
/-! DEFINITION. The named operations over the frame buffer and the registers. There is no operation for taking an
exception or returning from one: the block has neither (`60_exceptions.md` R210, R214, R215). -/

namespace Sys2Proof.Machine

/-! The frame buffer -/

/-- `F[a]` of the cells `m`. -/
def Memory.read (m : Memory) (a : Offset) : Byte :=
  match m with
  | [] => Memory.unlisted
  | (k, b) :: rest => if k = a.val then b else Memory.read rest a

/-- Every cell of offset `a` taken out. -/
def Memory.dropCell (m : Memory) (a : Offset) : Memory :=
  m.filter (fun c => c.1 != a.val)

/-- A cell put before the first one of a greater offset. -/
def Memory.insertCell (m : Memory) (a : Offset) (b : Byte) : Memory :=
  match m with
  | [] => [(a.val, b)]
  | (k, c) :: rest =>
    if a.val < k then (a.val, b) :: (k, c) :: rest else (k, c) :: Memory.insertCell rest a b

/-- `F[a] <- b`, keeping the canonical form: writing what an unlisted offset reads as leaves no cell. -/
def Memory.write (m : Memory) (a : Offset) (b : Byte) : Memory :=
  if b = Memory.unlisted then m.dropCell a else (m.dropCell a).insertCell a b

/-- The offset of byte `j` of word `k` of the frame: `4k + j` (`20_memory.md` R51). -/
def frameOffset (k j : Fin 4) : Offset :=
  ⟨4 * k.val + j.val, by omega⟩

/-- `MemWrite(4k, 4, v)`: little-endian, byte `j` of `v` at offset `4k + j` (`00_scope.md` R11, `20_memory.md` R52).
A store into F is always such a store (R56). -/
def Memory.storeWord (m : Memory) (k : Fin 4) (v : Word) : Memory :=
  (((m.write (frameOffset k 0) (byteOf v 0)).write (frameOffset k 1) (byteOf v 1)).write
    (frameOffset k 2) (byteOf v 2)).write (frameOffset k 3) (byteOf v 3)

/-- `MemRead(4k, 4)`: the four bytes at offset `4k` assembled little-endian (`00_scope.md` R11, `20_memory.md` R55). -/
def Memory.loadWord (m : Memory) (k : Fin 4) : Word :=
  wordOf (m.read (frameOffset k 0)) (m.read (frameOffset k 1)) (m.read (frameOffset k 2))
    (m.read (frameOffset k 3))

/-- The CRC input view: `view[4k + j] = F[4k + 3 - j]`, `k` = 0, 1, 2 and `j` = 0 .. 3 (`20_memory.md` R53). -/
def Memory.crcView (m : Memory) : List Byte :=
  [m.read (frameOffset 0 3), m.read (frameOffset 0 2), m.read (frameOffset 0 1), m.read (frameOffset 0 0),
   m.read (frameOffset 1 3), m.read (frameOffset 1 2), m.read (frameOffset 1 1), m.read (frameOffset 1 0),
   m.read (frameOffset 2 3), m.read (frameOffset 2 2), m.read (frameOffset 2 1), m.read (frameOffset 2 0)]

/-! The registers (`10_state.md` R21, R22, R24: disjoint storage, R23) -/

/-- `X <- v` -/
def State.setX (s : State) (v : Word) : State := { s with x := v }
/-- `Y <- v` -/
def State.setY (s : State) (v : Word) : State := { s with y := v }
/-- `W <- v` -/
def State.setW (s : State) (v : Word) : State := { s with w := v }
/-- `S0 <- v` -/
def State.setS0 (s : State) (v : Word) : State := { s with s0 := v }
/-- `S1 <- v` -/
def State.setS1 (s : State) (v : Word) : State := { s with s1 := v }
/-- `S2 <- v` -/
def State.setS2 (s : State) (v : Word) : State := { s with s2 := v }
/-- `CRC <- v` -/
def State.setCrc (s : State) (v : Word) : State := { s with crc := v }
/-- The frame buffer replaced as a whole: the stores of one command become visible together (`20_memory.md` R57). -/
def State.setFrame (s : State) (m : Memory) : State := { s with frame := m }
/-- The samples still to come on the input ports (log entry 1). -/
def State.setInputs (s : State) (l : List PortSample) : State := { s with inputs := l }

/-- `(S0, S1, S2) <- v`: the three are written together, after all reads (`43_kinematics.md` R180). -/
def State.setSpeeds (s : State) (v : Speeds) : State :=
  ((s.setS0 v.s0).setS1 v.s1).setS2 v.s2

end Sys2Proof.Machine
end

