-- ==== Sys2Proof/Machine/RegisterLoad.lean ====
section
/-! DEFINITION. `NOP`, the six register loads and a reserved opcode (`40_register_load.md`). A load stores the 32 bits
as they are: nothing is checked, rounded or canonicalised (R101). -/

namespace Sys2Proof.Machine

/-- `NOP`: nothing (R100). -/
def execNop (s : State) : Result := .next s

/-- `LD.X imm`: `X <- imm[31:0]` (R101). -/
def execLdX (imm : Word) (s : State) : Result := .next (s.setX imm)

/-- `LD.Y imm`: `Y <- imm[31:0]` (R102). -/
def execLdY (imm : Word) (s : State) : Result := .next (s.setY imm)

/-- `LD.W imm`: `W <- imm[31:0]` (R103). -/
def execLdW (imm : Word) (s : State) : Result := .next (s.setW imm)

/-- `LD.S0 imm`: `S0 <- imm[31:0]`; the frame is not rebuilt (R104). -/
def execLdS0 (imm : Word) (s : State) : Result := .next (s.setS0 imm)

/-- `LD.S1 imm`: `S1 <- imm[31:0]` (R105). -/
def execLdS1 (imm : Word) (s : State) : Result := .next (s.setS1 imm)

/-- `LD.S2 imm`: `S2 <- imm[31:0]` (R106). -/
def execLdS2 (imm : Word) (s : State) : Result := .next (s.setS2 imm)

/-- A command with the reserved opcode `op`: accepted and executed as a no-op; nothing is raised and nothing recorded
(R107, `30_encoding.md` R76; log entry 15). -/
def execReserved (_op : BitVec 8) (s : State) : Result := .next s

end Sys2Proof.Machine
end

