-- ==== Sys2Proof/Machine/Binary32.lean ====
section
/-! DEFINITION. IEEE-754 binary32 on bit patterns (`43_kinematics.md` R175 to R179): the classes of a pattern and its
value, rounding to nearest with ties to even, multiplication and addition. Exact values are integers: every finite
pattern is an integer multiple of 2^-149, so a sum is exact over 2^149 and a product over 2^298, and each result is
rounded once (log entry 10). No flag is recorded anywhere and nothing traps (R178). -/

namespace Sys2Proof.Machine

/-! The fields of a pattern and its class (the table of R175) -/

/-- `s = b[31]` -/
def signBit (b : Word) : Bool := b.msb

/-- `e = b[30:23]` -/
def expField (b : Word) : Nat := (b.extractLsb' 23 8).toNat

/-- `f = b[22:0]` -/
def fracField (b : Word) : Nat := (b.extractLsb' 0 23).toNat

/-- NaN: `e = 255`, `f ≠ 0`; quiet and signalling alike. -/
def isNaN (b : Word) : Bool := decide (expField b = 255) && decide (fracField b ≠ 0)

/-- An infinity: `e = 255`, `f = 0`. -/
def isInf (b : Word) : Bool := decide (expField b = 255) && decide (fracField b = 0)

/-- A zero: `e = 0`, `f = 0`, either sign. -/
def isZero (b : Word) : Bool := decide (expField b = 0) && decide (fracField b = 0)

/-- A pattern with a real value: zero, subnormal or normal. -/
def isFinite (b : Word) : Bool := decide (expField b ≠ 255)

/-- The magnitude of a finite pattern in units of 2^-149: `f` for a zero or a subnormal, `(2^23 + f)·2^(e-1)` for a
normal, whose value is `(2^23 + f)·2^(e-150)` (R175). -/
def magnitude (b : Word) : Nat :=
  if expField b = 0 then fracField b else (2 ^ 23 + fracField b) * 2 ^ (expField b - 1)

/-- The value of a finite pattern in units of 2^-149. -/
def scaledValue (b : Word) : Int :=
  if signBit b then -(magnitude b : Int) else magnitude b

/-- The value of a finite pattern (R175), as an exact rational. -/
def binary32Value (b : Word) : Rat :=
  (scaledValue b : Rat) / 2 ^ 149

/-! The patterns the rules name -/

/-- The pattern with sign `s` and `p` (below 2^31) in bits 30:0. -/
def withSign (s : Bool) (p : Nat) : Word :=
  BitVec.ofNat 32 (if s then 2 ^ 31 + p else p)

/-- Every NaN the datapath produces (R179). -/
def canonicalNaN : Word := 0x7FC00000#32

/-- (-1)^s · ∞: 0x7F800000 with bit 31 = `s` (R176). -/
def infinity (s : Bool) : Word := withSign s 0x7F800000

/-- The zero of sign `s` (R175). -/
def zeroOf (s : Bool) : Word := withSign s 0

/-! Rounding -/

/-- The integer nearest `num / den`, the even one of two equally near (R175). -/
def nearestEven (num den : Nat) : Nat :=
  let n := num / den
  let twice := 2 * (num % den)
  if twice < den then n
  else if den < twice then n + 1
  else if n % 2 = 0 then n else n + 1

/-- `RN32(r)` for the real `r` of sign `s` and magnitude `a = num / den` (R175). With `Q = q + 149` the rule's `q` is
-149 (`Q = 0`) for `a < 2^-126`, and `floor(log2 a) - 23` otherwise, where `floor(log2 a) + 149` is the logarithm of the
integer part of `a·2^149`. With `n` the integer nearest `a / 2^q`, the pattern whose value is `n·2^q` is `Q·2^23 + n`:
for `Q = 0` a zero or a subnormal is `n` itself and `n = 2^23` is the first normal; for `Q > 0` the leading bit of `n`
adds one to the exponent field `Q`, and `n = 2^24` carries into the next binade. -/
def rn32 (s : Bool) (num den : Nat) : Word :=
  if (2 ^ 128 - 2 ^ 103) * den ≤ num then infinity s
  else
    let big := if num * 2 ^ 126 < den then 0 else Nat.log2 (num * 2 ^ 149 / den) - 23
    withSign s (big * 2 ^ 23 + nearestEven (num * 2 ^ 149) (den * 2 ^ big))

/-! The two operations, in the rules' order of tests -/

/-- `fmul(a, b)` (`43_kinematics.md` R176). -/
def fmul (a b : Word) : Word :=
  if isNaN a || isNaN b then canonicalNaN
  else if (isInf a && isZero b) || (isZero a && isInf b) then canonicalNaN
  else
    let s := signBit a ^^ signBit b
    if isInf a || isInf b then infinity s
    else if isZero a || isZero b then zeroOf s
    else rn32 s (magnitude a * magnitude b) (2 ^ 149 * 2 ^ 149)

/-- `fadd(a, b)` (`43_kinematics.md` R177). -/
def fadd (a b : Word) : Word :=
  if isNaN a || isNaN b then canonicalNaN
  else if isInf a && isInf b then
    if signBit a = signBit b then a else canonicalNaN
  else if isInf a then a
  else if isInf b then b
  else if isZero a && isZero b then
    if signBit a = signBit b then a else zeroOf false
  else
    let r := scaledValue a + scaledValue b
    if r = 0 then zeroOf false else rn32 (decide (r < 0)) r.natAbs (2 ^ 149)

end Sys2Proof.Machine
end

