-- ==== Sys2Proof/Machine/Kin.lean ====
section
/-! DEFINITION. The KIN unit (`43_kinematics.md`): the datapath of R171, the configuration that has it, and `KIN`. -/

namespace Sys2Proof.Machine

/-- Lane `i`: the translation products first, then the rotational term; each operation rounds on its own (R171). -/
def kinLane (r : Rom) (i : Fin 3) (x y pw : Word) : Word :=
  fadd (fadd (fmul r.kx[i] x) (fmul r.ky[i] y)) pw

/-- The datapath of R171: one rotational product shared by three lanes that exchange no data (R180). -/
def kinDatapath (r : Rom) (x y w : Word) : Speeds :=
  let pw := fmul r.kw w
  { s0 := kinLane r 0 x y pw, s1 := kinLane r 1 x y pw, s2 := kinLane r 2 x y pw }

/-- The configuration of the block: the fixed geometry, its ROM, the datapath of R171 (log entry 9). -/
def referenceKin : KinConfig :=
  { geometry := referenceGeometry, rom := referenceRom, datapath := kinDatapath }

/-- `(S0, S1, S2) <- kin32(X, Y, W)` for any configuration of the KIN unit (R170, D12). -/
def kinOp (c : KinConfig) (s : State) : State :=
  s.setSpeeds (c.kin32 s.x s.y s.w)

/-- `KIN` (R170). -/
def execKin (s : State) : Result := .next (kinOp referenceKin s)

end Sys2Proof.Machine
end

