-- ==== Sys2Proof/Machine/Crc.lean ====
section
/-! DEFINITION. The CRC unit (`41_crc.md`, whose rules are meant where no file is named): the update functions of any
CRC variant, those of the block's variant, their two other forms, and the commands `CRC.INIT`, `CRC.BYTE`, `CRC.WORD`.
-/

namespace Sys2Proof.Machine

/-! For any parameters (R121) -/

/-- One conditional shift step: the register shifted left by one, the polynomial XORed in when the feedback bit is 1
(R122). -/
def shiftStep (p : CrcParams) (c : Word) (fb : Bool) : Word :=
  if fb then (c <<< 1) ^^^ p.poly else c <<< 1

/-- One data bit, entering at the top (R122). -/
def crcBit (p : CrcParams) (c : Word) (b : Bool) : Word :=
  shiftStep p c (c.msb ^^ b)

/-- A byte in the order its bits are fed, bit 7 first: as it is, or reversed when the input is reflected (R121). -/
def inputByte (p : CrcParams) (byte : Byte) : Byte :=
  if p.refIn then byte.reverse else byte

/-- One byte, in the variant's bit order (R121, R123). -/
def crcByte (p : CrcParams) (c : Word) (byte : Byte) : Word :=
  [7, 6, 5, 4, 3, 2, 1, 0].foldl (fun c k => crcBit p c ((inputByte p byte).getLsbD k)) c

/-- What the register becomes as a result: reversed when the output is reflected, and the final XOR (R121). -/
def crcResult (p : CrcParams) (c : Word) : Word :=
  (if p.refOut then c.reverse else c) ^^^ p.xorOut

/-- The whole function of a variant (R121, R125). -/
def crcOf (p : CrcParams) (bytes : List Byte) : Word :=
  crcResult p (bytes.foldl (crcByte p) p.init)

/-! The block's variant, CRC-32/MPEG-2 -/

/-- One data bit (R122). -/
def upd1 (c : Word) (b : Bool) : Word := crcBit crcParams c b

/-- One byte (R123). -/
def upd8 (c : Word) (byte : Byte) : Word := crcByte crcParams c byte

/-- One 32-bit word, most significant byte first (R124). -/
def updw (c v : Word) : Word :=
  upd8 (upd8 (upd8 (upd8 c (byteOf v 3)) (byteOf v 2)) (byteOf v 1)) (byteOf v 0)

/-- The bytes fed one after another from the register value `c`: `crc0` of R132 is this from 0. -/
def crcFrom (c : Word) (bytes : List Byte) : Word :=
  bytes.foldl upd8 c

/-- The whole function: the document's `compute(bytes)` (R120, R125). -/
def crc32m (bytes : List Byte) : Word := crcOf crcParams bytes

/-! The two other forms of `upd8` (R123, R126, R130), which are forms of a variant whose input is not reflected; neither
is state (`10_state.md` R29). -/

/-- The XOR-in form: `c xor (zext_32(byte) << 24)`, then eight conditional shift steps (R123). -/
def upd8XorIn (c : Word) (byte : Byte) : Word :=
  Nat.repeat (fun c => shiftStep crcParams c c.msb) 8 (c ^^^ (byte.setWidth 32 <<< 24))

/-- The table form over a table `t` (R126). -/
def upd8Table (t : Byte → Word) (c : Word) (byte : Byte) : Word :=
  (c <<< 8) ^^^ t (byteOf c 3 ^^^ byte)

/-! The commands -/

/-- `CRC.INIT`: `CRC <- 0xFFFFFFFF`, the initial register (R127). -/
def execCrcInit (s : State) : Result := .next (s.setCrc crcParams.init)

/-- `CRC.BYTE imm`: `CRC <- upd8(CRC, imm[7:0])` (R128). -/
def execCrcByte (byte : Byte) (s : State) : Result := .next (s.setCrc (upd8 s.crc byte))

/-- `CRC.WORD imm`: `CRC <- updw(CRC, imm[31:0])` (R129). -/
def execCrcWord (v : Word) (s : State) : Result := .next (s.setCrc (updw s.crc v))

end Sys2Proof.Machine
end

