-- ==== Sys2Proof/Machine/Pack.lean ====
section
/-! DEFINITION. The PACK unit (`42_frame_pack.md`). -/

namespace Sys2Proof.Machine

/-- Step 1 of R151: the three wheel speeds little-endian at offsets 0, 4, 8. -/
def packPayload (m : Memory) (v : Speeds) : Memory :=
  ((m.storeWord 0 v.s0).storeWord 1 v.s1).storeWord 2 v.s2

/-- Steps 2 and 3 of R151: the CRC of the CRC input view of a payload. -/
def payloadCrc (m : Memory) : Word :=
  crc32m m.crcView

/-- The wheel speeds a state holds. -/
def State.speeds (s : State) : Speeds :=
  { s0 := s.s0, s1 := s.s1, s2 := s.s2 }

/-- The whole of `PACK` on the present `S0`, `S1`, `S2` (R151): payload, CRC word at offset 12, `CRC <- c`, `FV <- 1`
(R152). -/
def packOp (s : State) : State :=
  let m := packPayload s.frame s.speeds
  let c := payloadCrc m
  ((s.setFrame (m.storeWord 3 c)).setCrc c).raiseFv

/-- `PACK` (R151). -/
def execPack (s : State) : Result := .next (packOp s)

end Sys2Proof.Machine
end

