-- ==== Sys2Proof/Machine/Sequencing.lean ====
section
/-! DEFINITION. `TICK` and `STOP` (`44_sequencing.md`). -/

namespace Sys2Proof.Machine

/-- `KIN` and then the whole of `PACK` on the new speeds, for any configuration of the KIN unit (R200). -/
def tickOp (c : KinConfig) (s : State) : State :=
  packOp (kinOp c s)

/-- The intent and the wheel speeds cleared to +0.0 (R201). -/
def clearMotion (s : State) : State :=
  (((s.setX 0x00000000#32).setY 0x00000000#32).setW 0x00000000#32).setSpeeds
    { s0 := 0x00000000#32, s1 := 0x00000000#32, s2 := 0x00000000#32 }

/-- `TICK` (R200). -/
def execTick (s : State) : Result := .next (tickOp referenceKin s)

/-- `STOP`: motion cleared, then the whole of `PACK` on the new speeds (R201). -/
def execStop (s : State) : Result := .next (packOp (clearMotion s))

end Sys2Proof.Machine
end

