-- ==== Sys2Proof/Machine/Dispatch.lean ====
section
/-! DEFINITION. One arm per command. -/

namespace Sys2Proof.Machine

def exec (i : Instr) (s : State) : Host.Outcome State Fault Refusal :=
  match i with
  | .nop => Sys2Proof.Machine.execNop s
  | .stop => Sys2Proof.Machine.execStop s
  | .crcInit => Sys2Proof.Machine.execCrcInit s
  | .crcByte byte => Sys2Proof.Machine.execCrcByte byte s
  | .crcWord word => Sys2Proof.Machine.execCrcWord word s
  | .ldX imm => Sys2Proof.Machine.execLdX imm s
  | .ldY imm => Sys2Proof.Machine.execLdY imm s
  | .ldW imm => Sys2Proof.Machine.execLdW imm s
  | .ldS0 imm => Sys2Proof.Machine.execLdS0 imm s
  | .ldS1 imm => Sys2Proof.Machine.execLdS1 imm s
  | .ldS2 imm => Sys2Proof.Machine.execLdS2 imm s
  | .kin => Sys2Proof.Machine.execKin s
  | .pack => Sys2Proof.Machine.execPack s
  | .tick => Sys2Proof.Machine.execTick s

end Sys2Proof.Machine
end

