-- ==== Sys2Proof/Machine/Ports.lean ====
section
/-! DEFINITION. The ports of the block (`10_state.md` R30, R31): what one sample of the input ports asks for, the
acceptance of a command, reset as an event between commands, and the output ports. -/

namespace Sys2Proof.Machine

/-! Inputs -/

/-- `cmd_ready` at a sample taken between commands: 0 while `rst` is asserted (`70_reset_and_hazards.md` R240) and 1
otherwise, since an accepted command completes (R255; log entry 6). -/
def cmdReady (p : PortSample) : Bool := !p.rst

/-- A command is accepted when `cmd_valid` and `cmd_ready` are both 1 (`10_state.md` R30). -/
def accepted (p : PortSample) : Bool := p.cmdValid && cmdReady p

/-- What a sample of the input ports asks the block to do. -/
inductive PortEvent where
  /-- no command accepted: the block holds its state (`60_exceptions.md` R220) -/
  | hold
  /-- `rst` asserted (`70_reset_and_hazards.md` R240) -/
  | reset
  /-- a command accepted (`10_state.md` R30) -/
  | command (w : CommandWord)
  deriving DecidableEq, Repr

/-- Reset wins over a command at the same sample, which then has no effect (`70_reset_and_hazards.md` R241). -/
def portEvent (p : PortSample) : PortEvent :=
  if p.rst then .reset else if accepted p then .command p.cmd else .hold

/-- The event of the next step: the oldest sample's, and `hold` when the host presents nothing more
(`70_reset_and_hazards.md` R257; log entry 1). -/
def nextEvent (s : State) : PortEvent :=
  match s.inputs with
  | [] => .hold
  | p :: _ => portEvent p

/-- The oldest sample taken. -/
def consume (s : State) : State := s.setInputs s.inputs.tail

/-- The block's state becomes the reset state; what the host has still to present is not the block's
(`70_reset_and_hazards.md` R240). -/
def applyReset (s : State) : State := { Block.reset with inputs := s.inputs }

/-- A command word accepted and executed completely: the instruction it decodes to, or the no-op of a reserved opcode
(`00_scope.md` R14, `30_encoding.md` R74, R76). -/
def acceptCommand (w : CommandWord) (s : State) : Result :=
  match decode w with
  | .ok i => exec i s
  | .error (.reservedOpcode op) => execReserved op s

/-- The step for an event. -/
def stepEvent (e : PortEvent) (s : State) : Result :=
  match e with
  | .hold => .next s
  | .reset => .next (applyReset s)
  | .command w => acceptCommand w s

/-- A sample that presents the word `w` and no reset. -/
def present (w : CommandWord) : PortSample := { rst := false, cmdValid := true, cmd := w }

/-- A program: a finite list of command words, executed first to last; its result is the fold of the commands' rules
over the list (`10_state.md` R27, `20_memory.md` R59, `70_reset_and_hazards.md` R257). -/
def runProgram (ws : List CommandWord) (s : State) : Result :=
  match ws with
  | [] => .next s
  | w :: rest =>
    match acceptCommand w s with
    | .next t => runProgram rest t
    | .fault e => .fault e
    | .refused r => .refused r

/-! Outputs -/

/-- The output ports (`10_state.md` R31). -/
structure Outputs where
  xO : Word
  yO : Word
  wO : Word
  s0O : Word
  s1O : Word
  s2O : Word
  crcO : Word
  frameO : BitVec 128
  fvO : Bool
  deriving DecidableEq, Repr

/-- `frame_o`, with `frame_o[8i+7:8i] = F[i]`: the 128-bit value `{F[15], F[14], ..., F[0]}` (`10_state.md` R31,
`20_memory.md` R55). -/
def frameOut (m : Memory) : BitVec 128 :=
  m.read 15 ++ m.read 14 ++ m.read 13 ++ m.read 12 ++ m.read 11 ++ m.read 10 ++ m.read 9 ++ m.read 8 ++
  m.read 7 ++ m.read 6 ++ m.read 5 ++ m.read 4 ++ m.read 3 ++ m.read 2 ++ m.read 1 ++ m.read 0

/-- What the output ports show between commands (`10_state.md` R31; log entry 4). -/
def State.outputs (s : State) : Outputs :=
  { xO := s.x, yO := s.y, wO := s.w, s0O := s.s0, s1O := s.s1, s2O := s.s2
    crcO := s.crc, frameO := frameOut s.frame, fvO := s.fv }

/-! The block as one number of 353 bits -/

/-- The contents of the frame buffer that `frame_o` = `v` shows (`20_memory.md` R55). -/
def frameOfOut (v : BitVec 128) : Memory :=
  (((Memory.storeWord [] 0 (v.extractLsb' 0 32)).storeWord 1 (v.extractLsb' 32 32)).storeWord 2
    (v.extractLsb' 64 32)).storeWord 3 (v.extractLsb' 96 32)

/-- All state of the block, in the order of the table of `10_state.md` R20, `X` topmost: 6·32 + 32 + 128 + 1 bits. The
order is the model's (log entry 7). -/
def Block.bits (b : Block) : BitVec 353 :=
  b.x ++ b.y ++ b.w ++ b.s0 ++ b.s1 ++ b.s2 ++ b.crc ++ frameOut b.frame ++ BitVec.ofBool b.fv

/-- The block that 353 bits stand for (log entry 7). -/
def Block.ofBits (v : BitVec 353) : Block :=
  { x := v.extractLsb' 321 32, y := v.extractLsb' 289 32, w := v.extractLsb' 257 32
    s0 := v.extractLsb' 225 32, s1 := v.extractLsb' 193 32, s2 := v.extractLsb' 161 32
    crc := v.extractLsb' 129 32
    frame := frameOfOut (v.extractLsb' 1 128)
    fv := v.getLsbD 0 }

/-- The sixteen bytes in the order a bus master sends them, `F[0]` first (`10_state.md` R31). -/
def frameBytes (m : Memory) : List Byte :=
  (List.finRange 16).map m.read

end Sys2Proof.Machine
end

