-- ==== Sys2Proof/Machine/Step.lean ====
section
/-! DEFINITION. The step: one sample of the input ports taken, and what it asks for done. -/

namespace Sys2Proof.Machine

/-- One step of the block (`10_state.md` R30, `20_memory.md` R59; log entry 1). -/
def step (s : State) : Host.Outcome State Fault Refusal :=
  stepEvent (nextEvent s) (consume s)

/-- `s` with the command word of `nbits` bits `w` presented on the command port next (log entries 1, 13). -/
def State.withFetchWord (s : State) (nbits w : Nat) : State :=
  s.setInputs (present (BitVec.ofNat 40 (w % 2 ^ nbits)) :: s.inputs)

end Sys2Proof.Machine
end

