-- ==== Sys2Proof/Machine/Assembler.lean ====
section
/-! DEFINITION. The assembler layer of the spec: the pseudo-instructions and their expansions (`30_encoding.md` R79),
the written form of a command (R78), and the conversion of a decimal literal (R78). It is the host's work and no part
of the block (log entry 14). -/

namespace Sys2Proof.Machine

/-- The pseudo-instructions of `30_encoding.md` R79. -/
inductive Pseudo where
  /-- `CRC.COMPUTE b0, ..., b(n-1)`, n ≥ 0: the document's `compute(bytes)` -/
  | crcCompute (bytes : List Byte)
  /-- `SPEEDS s0, s1, s2`: direct wheel speeds, then `encode`; an operand list as the host has it -/
  | speeds (values : List Word)
  /-- `INTENT x, y, w` -/
  | intent (x y w : Word)
  /-- `DRIVE x, y, w`: the intent routed through the kinematics, then serialised -/
  | drive (x y w : Word)
  /-- `FRAME.CHECK`, with the four words the host read from `s0_o`, `s1_o`, `s2_o` and `F[12..15]` -/
  | frameCheck (s0 s1 s2 c : Word)
  deriving DecidableEq, Repr

/-- The one operand list that can be wrong: SPEEDS takes exactly three values (`93_implementation_defined.md` U3). -/
def Pseudo.wf : Pseudo → Bool
  | .crcCompute _ => true
  | .speeds values => decide (values.length = 3)
  | .intent _ _ _ => true
  | .drive _ _ _ => true
  | .frameCheck _ _ _ _ => true

/-- The exact expansion (`30_encoding.md` R79); a SPEEDS of another length than three is refused before encoding (U3).
-/
def Pseudo.expand : Pseudo → Option (List Instr)
  | .crcCompute bytes => some (.crcInit :: bytes.map .crcByte)
  | .speeds [a, b, c] => some [.ldS0 a, .ldS1 b, .ldS2 c, .pack]
  | .speeds _ => none
  | .intent a b c => some [.ldX a, .ldY b, .ldW c]
  | .drive a b c => some [.ldX a, .ldY b, .ldW c, .tick]
  | .frameCheck a b c d => some [.crcInit, .crcWord a, .crcWord b, .crcWord c, .crcWord d]

/-- A list of commands executed first to last (`10_state.md` R27, `30_encoding.md` R80); the program of their words is
`runProgram` of Machine/Ports.lean. -/
def runInstrs (is : List Instr) (s : State) : Result :=
  match is with
  | [] => .next s
  | i :: rest =>
    match exec i s with
    | .next t => runInstrs rest t
    | .fault e => .fault e
    | .refused r => .refused r

/-- `f:<decimal>`: the binary32 pattern nearest the decimal value of sign `neg` and magnitude `num / den`, ties to even;
`f:0` and `f:-0` are the two zeros (`30_encoding.md` R78, `43_kinematics.md` R175). -/
def floatLiteral (neg : Bool) (num den : Nat) : Word :=
  if num = 0 then zeroOf neg else rn32 neg num den

/-- A word or a byte as the assembler writes it: `0x` and its hexadecimal digits (`30_encoding.md` R78). -/
def hexOperand (n : Nat) (v : BitVec n) : String :=
  "0x" ++ v.toHex.toUpper

/-- A command as the assembler writes it (`30_encoding.md` R78). -/
def asmLine : Instr → String
  | .crcByte b => "CRC.BYTE " ++ hexOperand 8 b
  | .crcWord v => "CRC.WORD " ++ hexOperand 32 v
  | .ldX v => "LD.X " ++ hexOperand 32 v
  | .ldY v => "LD.Y " ++ hexOperand 32 v
  | .ldW v => "LD.W " ++ hexOperand 32 v
  | .ldS0 v => "LD.S0 " ++ hexOperand 32 v
  | .ldS1 v => "LD.S1 " ++ hexOperand 32 v
  | .ldS2 v => "LD.S2 " ++ hexOperand 32 v
  | .nop => "NOP"
  | .stop => "STOP"
  | .crcInit => "CRC.INIT"
  | .kin => "KIN"
  | .pack => "PACK"
  | .tick => "TICK"

end Sys2Proof.Machine
end

