-- ==== Sys2Proof/RealKinematics.lean ====
section
/-! DEFINITION. The rules that are about real numbers and not about bit patterns: what RN32 of a real number is
(`43_kinematics.md` R175), the document's transform (R172) and its matrix form (R173). No step of the block reads them;
they are what claims hold the datapath against. -/

namespace Sys2Proof

open Sys2Proof.Machine

/-- The value of a finite pattern as a real number (`43_kinematics.md` R175). -/
noncomputable def realValue (b : Word) : ℝ := (binary32Value b : ℝ)

/-- `n` is the integer nearest `a`, the even one of two equally near (`43_kinematics.md` R175). -/
def NearestEvenInt (a : ℝ) (n : ℤ) : Prop :=
  |a - n| ≤ 1 / 2 ∧ (|a - n| = 1 / 2 → Even n)

/-- `p` is `RN32(r)` for the real `r ≠ 0` (`43_kinematics.md` R175): the infinity of its sign when
`|r| ≥ 2^128 - 2^103`; otherwise the pattern of its sign whose value has magnitude `n·2^q`, with `q = -149` below
2^-126 and `floor(log2 |r|) - 23` from there on, and `n` the integer nearest `|r| / 2^q`, ties to even. -/
noncomputable def IsRN32 (r : ℝ) (p : Word) : Prop :=
  if 2 ^ 128 - 2 ^ 103 ≤ |r| then
    p = if r < 0 then infinity true else infinity false
  else
    isFinite p = true ∧ (signBit p = true ↔ r < 0) ∧
    ∃ q n : ℤ,
      q = (if |r| < (2 : ℝ) ^ (-126 : ℤ) then -149 else Int.log 2 |r| - 23) ∧
      NearestEvenInt (|r| / (2 : ℝ) ^ q) n ∧
      |realValue p| = n * (2 : ℝ) ^ q

/-- `M` = metricToWheelUnits = 1 / (2π·wheelRadius) (`00_scope.md` R8). -/
noncomputable def metricToWheelUnits (g : Geometry) : ℝ :=
  1 / (2 * Real.pi * (g.wheelRadius : ℝ))

/-- `θᵢ` in radians (`00_scope.md` R8). -/
noncomputable def wheelAngle (g : Geometry) (i : Fin 3) : ℝ :=
  (g.theta[i] : ℝ) * Real.pi / 180

/-- The rotational term, the same for all wheels (`43_kinematics.md` R172). -/
noncomputable def rotationalTerm (g : Geometry) (rotation : ℝ) : ℝ :=
  rotation * (g.wheelFromCenter : ℝ) * metricToWheelUnits g

/-- The document's transform: `M·speed·cos(θᵢ - angle) + rotationalTerm` with `speed = sqrt(x² + y²)` and
`angle = atan2(y, x)`, which is the argument of `x + y·i` (`43_kinematics.md` R172). -/
noncomputable def polarWheelSpeed (g : Geometry) (i : Fin 3) (x y rotation : ℝ) : ℝ :=
  metricToWheelUnits g * Real.sqrt (x ^ 2 + y ^ 2) * Real.cos (wheelAngle g i - Complex.arg ⟨x, y⟩) +
    rotationalTerm g rotation

/-- The coefficient of `x` for wheel `i`: `M·cos θᵢ` (`43_kinematics.md` R173, `10_state.md` R25). -/
noncomputable def coefficientX (g : Geometry) (i : Fin 3) : ℝ :=
  metricToWheelUnits g * Real.cos (wheelAngle g i)

/-- The coefficient of `y` for wheel `i`: `M·sin θᵢ` (`43_kinematics.md` R173, `10_state.md` R25). -/
noncomputable def coefficientY (g : Geometry) (i : Fin 3) : ℝ :=
  metricToWheelUnits g * Real.sin (wheelAngle g i)

/-- The coefficient of the rotation: `d·M` (`43_kinematics.md` R173, `10_state.md` R25). -/
noncomputable def coefficientW (g : Geometry) : ℝ :=
  (g.wheelFromCenter : ℝ) * metricToWheelUnits g

/-- The constant 3 × 3 matrix applied to (x, y, rotation) (`43_kinematics.md` R173). -/
noncomputable def matrixWheelSpeed (g : Geometry) (i : Fin 3) (x y rotation : ℝ) : ℝ :=
  coefficientX g i * x + coefficientY g i * y + coefficientW g * rotation

/-- The pattern of wheel index `i` in a result. -/
def Speeds.get (v : Speeds) (i : Fin 3) : Word :=
  match i with
  | 0 => v.s0
  | 1 => v.s1
  | 2 => v.s2

end Sys2Proof
end

