-- ==== Sys2Proof/Safety.lean ====
section
/-! DEFINITION. What counts as a safe run, in the terms the claims use: the invariant every step keeps, what a frame
must be to be sent, and the access matrix of the commands. -/

namespace Sys2Proof

open Sys2Proof.Machine

/-- The bytes of a word in offset order: least significant first (`20_memory.md` R52). -/
def leBytes (v : Word) : List Byte := [byteOf v 0, byteOf v 1, byteOf v 2, byteOf v 3]

/-- The bytes of a word most significant first, as the CRC input view has them (`20_memory.md` R54). -/
def beBytes (v : Word) : List Byte := [byteOf v 3, byteOf v 2, byteOf v 1, byteOf v 0]

/-- The CRC input view of three wheel speeds (`20_memory.md` R54). -/
def speedsView (v : Speeds) : List Byte := beBytes v.s0 ++ beBytes v.s1 ++ beBytes v.s2

/-- The sixteen bytes hold the speeds `v` and the CRC word `c`, byte by byte (`20_memory.md` R51). -/
def HoldsFrame (m : Memory) (v : Speeds) (c : Word) : Prop :=
  frameBytes m = leBytes v.s0 ++ leBytes v.s1 ++ leBytes v.s2 ++ leBytes c

/-- The reserved opcodes: 0x02..0x0F, 0x13..0x1F, 0x23..0x27, 0x2B..0x2F, 0x33..0xFF (`30_encoding.md` R76). -/
def isReservedOpcode (op : BitVec 8) : Bool :=
  let n := op.toNat
  (decide (0x02 ≤ n) && decide (n ≤ 0x0F)) || (decide (0x13 ≤ n) && decide (n ≤ 0x1F)) ||
  (decide (0x23 ≤ n) && decide (n ≤ 0x27)) || (decide (0x2B ≤ n) && decide (n ≤ 0x2F)) || decide (0x33 ≤ n)

/-- An exact product is zero or not in the subnormal range (`43_kinematics.md` R174). -/
abbrev ProductInNormalRange (a b : Word) : Prop :=
  binary32Value a * binary32Value b = 0 ∨ (1 : Rat) / 2 ^ 126 ≤ |binary32Value a * binary32Value b|

/-- The sixteen bytes are a frame: the CRC word at offset 12 is the CRC of the input view of bytes 0 to 11
(`42_frame_pack.md` R150). -/
abbrev FrameCoherent (m : Memory) : Prop :=
  m.loadWord 3 = payloadCrc m

/-- The invariant: the frame buffer is in canonical form; when `FV` is 1 it holds a frame, and while `FV` is 0 it still
holds the reset pattern (`10_state.md` R28, R33; `70_reset_and_hazards.md` R242). -/
structure Inv (s : State) : Prop where
  frameWf : s.frame.wf
  validFrame : s.fv = true → FrameCoherent s.frame
  noFrameYet : s.fv = false → ∀ a, s.frame.read a = 0x00#8

/-- A step stops nowhere: it has neither a fault nor a refusal outcome (`60_exceptions.md` R211). -/
def NeverStops (s : State) : Prop :=
  ∃ t, step s = .next t

/-- The pieces of architectural state (`10_state.md` R20), for the access matrix. -/
inductive Component where
  | x | y | w | s0 | s1 | s2 | crc | frame | fv
  deriving DecidableEq, Repr

/-- Two states hold the same in a component. -/
def Component.same (c : Component) (s t : State) : Prop :=
  match c with
  | .x => s.x = t.x
  | .y => s.y = t.y
  | .w => s.w = t.w
  | .s0 => s.s0 = t.s0
  | .s1 => s.s1 = t.s1
  | .s2 => s.s2 = t.s2
  | .crc => s.crc = t.crc
  | .frame => ∀ a, s.frame.read a = t.frame.read a
  | .fv => s.fv = t.fv

/-- The `w` entries of a row of the access matrix (`10_state.md` R32). -/
def writesOf : Instr → List Component
  | .nop => []
  | .stop => [.x, .y, .w, .s0, .s1, .s2, .crc, .frame, .fv]
  | .crcInit => [.crc]
  | .crcByte _ => [.crc]
  | .crcWord _ => [.crc]
  | .ldX _ => [.x]
  | .ldY _ => [.y]
  | .ldW _ => [.w]
  | .ldS0 _ => [.s0]
  | .ldS1 _ => [.s1]
  | .ldS2 _ => [.s2]
  | .kin => [.s0, .s1, .s2]
  | .pack => [.crc, .frame, .fv]
  | .tick => [.s0, .s1, .s2, .crc, .frame, .fv]

/-- The `r` entries of a row of the access matrix (`10_state.md` R32), but for the ROM, which is no state. -/
def readsOf : Instr → List Component
  | .nop => []
  | .stop => []
  | .crcInit => []
  | .crcByte _ => [.crc]
  | .crcWord _ => [.crc]
  | .ldX _ => []
  | .ldY _ => []
  | .ldW _ => []
  | .ldS0 _ => []
  | .ldS1 _ => []
  | .ldS2 _ => []
  | .kin => [.x, .y, .w]
  | .pack => [.s0, .s1, .s2]
  | .tick => [.x, .y, .w]

end Sys2Proof
end

