-- ==== Sys2Proof/WellFormed.lean ====
section
/-! DEFINITION. What is well-formed. An instruction's operands have exactly the widths the encoding gives them, so
every term of Instr stands for a command; the one check the spec asks of a configuration is on the geometry. (The one
check it asks of an operand list, the length of SPEEDS, is Pseudo.wf in Machine/Assembler.lean.) -/

namespace Sys2Proof

/-- Every command is well-formed: `imm` may hold any 32 bits and a byte operand any 8 bits (`30_encoding.md` R72, R74:
"No word is undecodable"), and Instr's operands have those widths. One arm per constructor, so that a constructor added
later has to say its own check. -/
def Instr.wf : Instr → Bool
  | .nop => true
  | .stop => true
  | .crcInit => true
  | .crcByte _ => true
  | .crcWord _ => true
  | .ldX _ => true
  | .ldY _ => true
  | .ldW _ => true
  | .ldS0 _ => true
  | .ldS1 _ => true
  | .ldS2 _ => true
  | .kin => true
  | .pack => true
  | .tick => true

/-- A geometry is refused, at configuration time and never at run time, when its wheel radius is not positive
(`93_implementation_defined.md` U2, `43_kinematics.md` R178). A Rat is always finite. -/
def Geometry.wf (g : Geometry) : Bool :=
  decide (0 < g.wheelRadius)

end Sys2Proof
end

