-- ==== Sys2Proof/Certificates/Slice0/Obligations.lean ====
section
/-! DEFINITION. The statements for the provers. Each docstring names the rule of spec/ it formalises. No statement rests
on a free value: the model has none. -/

open Sys2Proof Sys2Proof.Machine

/-! Encoding and decoding -/

/-- Decoding the word of a well-formed command gives the command back, every operand at every value (`30_encoding.md`
R70, R72, R73). -/
def Obligations.DecodeEncodeRoundTrip : Prop :=
  ∀ i : Instr, i.wf = true → decode (encode i) = .ok i

/-- Encoding what a word decodes to gives the word with its ignored bits zero: `op` and the bits its row takes are kept
(`30_encoding.md` R72, R73, R75). -/
def Obligations.EncodeOfDecodeKeepsTakenBits : Prop :=
  ∀ (w : CommandWord) (i : Instr), decode w = .ok i →
    ∃ row ∈ opcodeTable, row.mnemonic = i.mnemonic ∧ encode i = w &&& (row.mask ||| row.use.takenMask)

/-- The spec's sentence "Decoding is total" (`30_encoding.md` R74, which the spec marks as derived from R73): decoding
is by `op` alone, a word is the command of the one row it matches, or, matching none, a reserved command; two
different rows never match the same word. -/
def Obligations.DecodingIsTotalAndUnambiguous : Prop :=
  (∀ w : CommandWord,
    (∃ i, decode w = .ok i ∧ i.opcode = opField w ∧
      ∃ row ∈ opcodeTable, row.mnemonic = i.mnemonic ∧ w &&& row.mask = row.matchWord) ∨
    (decode w = .error (.reservedOpcode (opField w)) ∧
      ∀ row ∈ opcodeTable, w &&& row.mask ≠ row.matchWord)) ∧
  (∀ w : CommandWord, ∀ r ∈ opcodeTable, ∀ r' ∈ opcodeTable,
    w &&& r.mask = r.matchWord → w &&& r'.mask = r'.matchWord → r = r')

/-- R76, R107: the 242 opcodes outside the map are reserved; a command with one is accepted, changes nothing, and cannot
be told from `NOP`. -/
def Obligations.ReservedOpcodesAreNoOps : Prop :=
  ((List.range 256).filter fun n => isReservedOpcode (BitVec.ofNat 8 n)).length = 242 ∧
  (∀ (op : BitVec 8) (imm : Word),
    isReservedOpcode op = true ↔ decode (commandWord op imm) = .error (.reservedOpcode op)) ∧
  (∀ (op : BitVec 8) (imm : Word) (s : State), isReservedOpcode op = true →
    acceptCommand (commandWord op imm) s = .next s ∧
    acceptCommand (commandWord op imm) s = exec .nop s) ∧
  (∀ s : State, acceptCommand 0xFF12345678#40 s = .next s)

/-- R75: the ignored bits of `imm` may have any value: `imm[31:8]` of `CRC.BYTE`, all of `imm` for the commands of use
none; an assembler writes them as zero. -/
def Obligations.IgnoredImmediateBitsHaveNoEffect : Prop :=
  (∀ (hi : BitVec 24) (b : Byte), decode (commandWord 0x11#8 (hi ++ b)) = .ok (.crcByte b)) ∧
  (∀ imm : Word,
    decode (commandWord 0x00#8 imm) = .ok .nop ∧ decode (commandWord 0x01#8 imm) = .ok .stop ∧
    decode (commandWord 0x10#8 imm) = .ok .crcInit ∧ decode (commandWord 0x30#8 imm) = .ok .kin ∧
    decode (commandWord 0x31#8 imm) = .ok .pack ∧ decode (commandWord 0x32#8 imm) = .ok .tick) ∧
  (∀ b : Byte, encode (.crcByte b) = commandWord 0x11#8 (0#24 ++ b)) ∧
  (encode .nop = commandWord 0x00#8 0#32 ∧ encode .stop = commandWord 0x01#8 0#32 ∧
    encode .crcInit = commandWord 0x10#8 0#32 ∧ encode .kin = commandWord 0x30#8 0#32 ∧
    encode .pack = commandWord 0x31#8 0#32 ∧ encode .tick = commandWord 0x32#8 0#32) ∧
  decode 0x11FFFFFF41#40 = decode 0x1100000041#40

/-- The words of `95_test_vectors.md` section 2.7 decode as its table says. -/
def Obligations.WordsWrittenInTheSpecDecode : Prop :=
  decode 0x0000000000#40 = .ok .nop ∧ decode 0x01FFFFFFFF#40 = .ok .stop ∧
  decode 0x1000000001#40 = .ok .crcInit ∧ decode 0x11ABCDEF12#40 = .ok (.crcByte 0x12#8) ∧
  decode 0x12ABCDEF12#40 = .ok (.crcWord 0xABCDEF12#32) ∧ decode 0x2080000000#40 = .ok (.ldX 0x80000000#32) ∧
  decode 0x2A00000001#40 = .ok (.ldS2 0x00000001#32) ∧
  decode 0x2B00000001#40 = .error (.reservedOpcode 0x2B#8) ∧
  decode 0x3000000000#40 = .ok .kin ∧ decode 0x3100000000#40 = .ok .pack ∧ decode 0x3200000000#40 = .ok .tick ∧
  decode 0x3300000000#40 = .error (.reservedOpcode 0x33#8)

/-! The step and the ports -/

/-- A step runs the decoded command: when the oldest port sample has no reset and a valid command word that decodes to
the well-formed `i`, the step is `exec i` on the state with that sample taken (`00_scope.md` R14, `10_state.md` R30;
that the samples stand in State is the model's choice, log entry 1). -/
def Obligations.StepRunsTheDecodedCommand : Prop :=
  ∀ (s : State) (p : PortSample) (rest : List PortSample) (i : Instr),
    s.inputs = p :: rest → p.rst = false → p.cmdValid = true → decode p.cmd = .ok i → i.wf = true →
    step s = exec i { s with inputs := rest }

/-- A step on a reserved word takes the sample and changes nothing else (`30_encoding.md` R76; the samples: log
entry 1). -/
def Obligations.StepTakesAReservedWordAsNoOp : Prop :=
  ∀ (s : State) (p : PortSample) (rest : List PortSample) (op : BitVec 8),
    s.inputs = p :: rest → p.rst = false → p.cmdValid = true → decode p.cmd = .error (.reservedOpcode op) →
    step s = .next { s with inputs := rest }

/-- R240, R241: with `rst` asserted no command is accepted, whatever is presented beside it, and the state becomes the
reset state; it stays so while `rst` is asserted. That the samples stand in State and that those still to come outlive
the reset is the model's choice (log entries 1, 3). -/
def Obligations.ResetWinsOverACommand : Prop :=
  ∀ (s : State) (p : PortSample) (rest : List PortSample),
    s.inputs = p :: rest → p.rst = true →
    cmdReady p = false ∧ accepted p = false ∧
    ∃ t, step s = .next t ∧
      t.x = 0x00000000#32 ∧ t.y = 0x00000000#32 ∧ t.w = 0x00000000#32 ∧
      t.s0 = 0x00000000#32 ∧ t.s1 = 0x00000000#32 ∧ t.s2 = 0x00000000#32 ∧
      t.crc = 0xFFFFFFFF#32 ∧ (∀ a, t.frame.read a = 0x00#8) ∧ t.fv = false ∧
      t = { State.reset with inputs := rest } ∧
      (∀ (q : PortSample) (rest' : List PortSample), rest = q :: rest' → q.rst = true →
        step t = .next { State.reset with inputs := rest' })

/-- Between commands the block holds its state: a sample without reset and without a valid command is taken and nothing
else changes, and with nothing more presented the step changes nothing (`60_exceptions.md` R220,
`70_reset_and_hazards.md` R257; log entry 1). -/
def Obligations.StepHoldsStateBetweenCommands : Prop :=
  (∀ (s : State) (p : PortSample) (rest : List PortSample),
    s.inputs = p :: rest → p.rst = false → p.cmdValid = false → step s = .next { s with inputs := rest }) ∧
  (∀ s : State, s.inputs = [] → step s = .next s)

/-- "A model's step function for this block returns a next state for every state and every command word"
(`60_exceptions.md` R211, which the spec marks as derived). -/
def Obligations.EveryStepAnswersANextState : Prop :=
  (∀ s : State, NeverStops s) ∧
  (∀ (w : CommandWord) (s : State), ∃ t, acceptCommand w s = .next t ∧ t.inputs = s.inputs)

/-- R59: the state after the commands presented on the ports is the fold of the commands' rules over their list,
whatever the gaps between them. That the samples stand in State, and when a sample's command is accepted, are the
model's (log entries 1, 6). -/
def Obligations.PresentedCommandsRunAsAFold : Prop :=
  ∀ (s : State) (l rest : List PortSample),
    (∀ p ∈ l, p.rst = false) → s.inputs = l ++ rest →
    Host.Core.run Sys2Proof.core l.length s =
      runProgram ((l.filter accepted).map PortSample.cmd) { s with inputs := rest }

/-- A list of commands runs as the program of its words: encoding loses nothing of a program (`10_state.md` R27,
`30_encoding.md` R73, R80). -/
def Obligations.EncodedProgramsRunAsTheirCommands : Prop :=
  ∀ (is : List Instr) (s : State), runProgram (is.map encode) s = runInstrs is s ∧ ∃ t, runInstrs is s = .next t

/-- R33: every piece of state at its reset value; the reset pattern of the frame buffer is not a frame, since the CRC of
twelve zero bytes is 0x099C5421. -/
def Obligations.ResetStateHasTheStatedValues : Prop :=
  State.reset.x = 0x00000000#32 ∧ State.reset.y = 0x00000000#32 ∧ State.reset.w = 0x00000000#32 ∧
  State.reset.s0 = 0x00000000#32 ∧ State.reset.s1 = 0x00000000#32 ∧ State.reset.s2 = 0x00000000#32 ∧
  State.reset.crc = 0xFFFFFFFF#32 ∧ (∀ a, State.reset.frame.read a = 0x00#8) ∧ State.reset.fv = false ∧
  crc32m (List.replicate 12 0x00#8) = 0x099C5421#32 ∧ ¬ FrameCoherent State.reset.frame

/-- The output ports show the registers of the same name, `frame_o[8i+7:8i] = F[i]` and `fv_o = FV`, between commands
(`10_state.md` R31; that the model shows them between commands only: log entry 4). -/
def Obligations.OutputPortsShowTheState : Prop :=
  ∀ s : State,
    s.outputs.xO = s.x ∧ s.outputs.yO = s.y ∧ s.outputs.wO = s.w ∧
    s.outputs.s0O = s.s0 ∧ s.outputs.s1O = s.s1 ∧ s.outputs.s2O = s.s2 ∧ s.outputs.crcO = s.crc ∧
    (∀ a : Offset, s.outputs.frameO.extractLsb' (8 * a.val) 8 = s.frame.read a) ∧ s.outputs.fvO = s.fv

/-! NOP and the register loads -/

/-- R100: `NOP` leaves all state as it was, whatever its `imm`. -/
def Obligations.NopChangesNothing : Prop :=
  (∀ (imm : Word) (s : State), decode (commandWord 0x00#8 imm) = .ok .nop ∧ exec .nop s = .next s) ∧
  (∀ s : State, acceptCommand 0x0000000000#40 s = .next s ∧ acceptCommand 0x00DEADBEEF#40 s = .next s)

/-- R101, R102, R103: an intent load stores the 32 bits as they are in its register and changes nothing else. -/
def Obligations.IntentLoadsStoreTheWord : Prop :=
  (∀ (imm : Word) (s : State),
    (decode (commandWord 0x20#8 imm) = .ok (.ldX imm) ∧ exec (.ldX imm) s = .next { s with x := imm }) ∧
    (decode (commandWord 0x21#8 imm) = .ok (.ldY imm) ∧ exec (.ldY imm) s = .next { s with y := imm }) ∧
    (decode (commandWord 0x22#8 imm) = .ok (.ldW imm) ∧ exec (.ldW imm) s = .next { s with w := imm })) ∧
  (∀ s : State,
    acceptCommand 0x203DCCCCCD#40 s = .next { s with x := 0x3DCCCCCD#32 } ∧
    acceptCommand 0x21BECCCCCD#40 s = .next { s with y := 0xBECCCCCD#32 } ∧
    acceptCommand 0x223F000000#40 s = .next { s with w := 0x3F000000#32 })

/-- R104, R105, R106: a speed load stores the 32 bits as they are in its register and changes nothing else, the frame
included; a later `KIN` or `TICK` overwrites the loaded value. -/
def Obligations.SpeedLoadsStoreTheWord : Prop :=
  (∀ (imm : Word) (s : State),
    (decode (commandWord 0x28#8 imm) = .ok (.ldS0 imm) ∧ exec (.ldS0 imm) s = .next { s with s0 := imm }) ∧
    (decode (commandWord 0x29#8 imm) = .ok (.ldS1 imm) ∧ exec (.ldS1 imm) s = .next { s with s1 := imm }) ∧
    (decode (commandWord 0x2A#8 imm) = .ok (.ldS2 imm) ∧ exec (.ldS2 imm) s = .next { s with s2 := imm })) ∧
  (∀ (a b c : Word) (s : State),
    exec .kin { s with s0 := a, s1 := b, s2 := c } = exec .kin s ∧
    exec .tick { s with s0 := a, s1 := b, s2 := c } = exec .tick s) ∧
  (∀ s : State,
    acceptCommand 0x283FC00000#40 s = .next { s with s0 := 0x3FC00000#32 } ∧
    acceptCommand 0x29C0100000#40 s = .next { s with s1 := 0xC0100000#32 } ∧
    acceptCommand 0x2A00000000#40 s = .next { s with s2 := 0x00000000#32 })

/-! The CRC unit -/

/-- R122, R125: one data bit, and the whole function; the empty input returns the initial register. -/
def Obligations.CrcUpdateFunctions : Prop :=
  (∀ (c : Word) (b : Bool), upd1 c b =
    if (c.getLsbD 31 ^^ b) = true then (c <<< 1) ^^^ 0x04C11DB7#32 else c <<< 1) ∧
  crc32m [] = 0xFFFFFFFF#32 ∧
  (∀ bytes : List Byte, crc32m bytes = bytes.foldl upd8 0xFFFFFFFF#32)

/-- R130: the bit-serial form, the XOR-in form and the table form of `upd8` agree for all inputs. -/
def Obligations.ThreeFormsOfByteUpdateAgree : Prop :=
  ∀ (c : Word) (b : Byte),
    upd8 c b = upd8XorIn c b ∧ upd8 c b = upd8Table (fun i => upd8 0x00000000#32 i) c b

/-- The table of `41_crc.md` R126, which the spec marks as derived from R122 and R123: the 256 printed entries are
`upd8(0, i)`, the table form over them is `upd8`, and the printed checks hold. -/
def Obligations.PrintedCrcTableIsTheTable : Prop :=
  crcTable.length = 256 ∧ (∀ i : Byte, crcTableEntry i = upd8 0x00000000#32 i) ∧
  (∀ (c : Word) (b : Byte), upd8 c b = upd8Table crcTableEntry c b) ∧
  crcTableEntry 0x01#8 = 0x04C11DB7#32 ∧ crcTableEntry 0x80#8 = 0x690CE0EE#32 ∧
  crcTableEntry 0xFF#8 = 0xB1F740B4#32 ∧
  crcTable.foldl (fun a b => a ^^^ b) 0#32 = 0x00000000#32 ∧
  crcTable.foldl (fun a b => a + b) 0#32 = 0xFFFFFF80#32

/-- R127: `CRC.INIT` loads the initial register, whatever `CRC` was, and changes nothing else. -/
def Obligations.CrcInitLoadsTheInitialRegister : Prop :=
  (∀ (imm : Word) (s : State),
    decode (commandWord 0x10#8 imm) = .ok .crcInit ∧ exec .crcInit s = .next { s with crc := 0xFFFFFFFF#32 }) ∧
  (∀ s t : State, exec .crcInit s = .next t → exec .crcInit t = .next t) ∧
  (∀ s : State, acceptCommand 0x1000000000#40 { s with crc := 0x0376E6E7#32 } =
    .next { s with crc := 0xFFFFFFFF#32 })

/-- R128: `CRC.BYTE` feeds one byte to whatever `CRC` holds and changes nothing else; after `CRC.INIT` and n `CRC.BYTE`
commands `CRC` is `crc32m` of the n bytes; zero is the only register value a zero byte leaves in place. -/
def Obligations.CrcByteFeedsOneByte : Prop :=
  (∀ (hi : BitVec 24) (b : Byte) (s : State),
    decode (commandWord 0x11#8 (hi ++ b)) = .ok (.crcByte b) ∧
    exec (.crcByte b) s = .next { s with crc := upd8 s.crc b }) ∧
  (∀ (bytes : List Byte) (s : State),
    runInstrs (.crcInit :: bytes.map .crcByte) s = .next { s with crc := crc32m bytes } ∧
    runInstrs (bytes.map .crcByte) s = .next { s with crc := crcFrom s.crc bytes }) ∧
  upd8 0xFFFFFFFF#32 0x00#8 = 0x4E08BFB4#32 ∧
  (∀ c : Word, upd8 c 0x00#8 = c ↔ c = 0x00000000#32) ∧
  (∀ s : State, acceptCommand 0x1100000031#40 { s with crc := 0xFFFFFFFF#32 } =
    .next { s with crc := 0x9EFBCF93#32 })

/-- R129: `CRC.WORD` feeds the four bytes of its word, most significant first: the same as four `CRC.BYTE` commands in
that order, and not the same as the little-endian bytes in offset order. -/
def Obligations.CrcWordFeedsFourBytes : Prop :=
  (∀ (v : Word) (s : State),
    decode (commandWord 0x12#8 v) = .ok (.crcWord v) ∧
    exec (.crcWord v) s = .next { s with crc := updw s.crc v } ∧
    runInstrs [.crcByte (v.extractLsb' 24 8), .crcByte (v.extractLsb' 16 8), .crcByte (v.extractLsb' 8 8),
      .crcByte (v.extractLsb' 0 8)] s = exec (.crcWord v) s) ∧
  updw 0xFFFFFFFF#32 0x31323334#32 ≠ crcFrom 0xFFFFFFFF#32 (leBytes 0x31323334#32) ∧
  (∀ s : State, acceptCommand 0x1231323334#40 { s with crc := 0xFFFFFFFF#32 } =
    .next { s with crc := 0xA695C4AA#32 })

/-- Law 1 of R132: `crc32m(a) xor crc32m(b) = crc0(a xor b)` for byte sequences of equal length. -/
def Obligations.CrcIsLinearOverXor : Prop :=
  ∀ as bs : List Byte, as.length = bs.length →
    crc32m as ^^^ crc32m bs = crcFrom 0x00000000#32 (List.zipWith (fun a b => a ^^^ b) as bs)

/-- Law 2 of R132: flipping any one bit of the input changes the result, for inputs of any length. -/
def Obligations.CrcDetectsEverySingleBitFlip : Prop :=
  ∀ (bytes : List Byte) (i : Fin bytes.length) (j : Fin 8),
    crc32m (bytes.set i (bytes[i] ^^^ (0x01#8 <<< j.val))) ≠ crc32m bytes

/-- Laws 3 and 4 of R132: feeding the register back most significant byte first empties it, and so do four bytes 0xFF
from the initial register. -/
def Obligations.CrcHasZeroResidue : Prop :=
  (∀ c : Word, updw c c = 0x00000000#32) ∧
  (∀ m : List Byte, crc32m (m ++ beBytes (crc32m m)) = 0x00000000#32) ∧
  crc32m [0xFF#8, 0xFF#8, 0xFF#8, 0xFF#8] = 0x00000000#32

/-- The check value of `41_crc.md` R133, which the spec marks as derived: on the nine ASCII bytes "123456789" the
function gives 0x0376E6E7 and not the zlib value. -/
def Obligations.CrcCheckValue : Prop :=
  crc32m [0x31#8, 0x32#8, 0x33#8, 0x34#8, 0x35#8, 0x36#8, 0x37#8, 0x38#8, 0x39#8] = 0x0376E6E7#32 ∧
  crc32m [0x31#8, 0x32#8, 0x33#8, 0x34#8, 0x35#8, 0x36#8, 0x37#8, 0x38#8, 0x39#8] ≠ 0xCBF43926#32

/-! The frame and the packer -/

/-- R53: the CRC input view reverses the bytes inside each 4-byte word: `view[4k + j] = F[4k + 3 - j]`. -/
def Obligations.CrcViewReversesBytesInEachWord : Prop :=
  ∀ m : Memory, m.crcView.length = 12 ∧
    (∀ (k : Fin 3) (j : Fin 4), m.crcView[4 * k.val + j.val]? =
      some (m.read ⟨4 * k.val + 3 - j.val, by omega⟩)) ∧
    m.crcView = [m.read 3, m.read 2, m.read 1, m.read 0, m.read 7, m.read 6, m.read 5, m.read 4,
      m.read 11, m.read 10, m.read 9, m.read 8]

/-- The spec's own consequence of R51 and R53 (`20_memory.md` R54): once the three speeds are stored, the view is the
three registers each most significant byte first, so its CRC is three word updates from the initial register. -/
def Obligations.CrcViewIsTheRegistersMsbFirst : Prop :=
  ∀ (m : Memory) (v : Speeds),
    (packPayload m v).crcView = speedsView v ∧
    crc32m (speedsView v) = updw (updw (updw 0xFFFFFFFF#32 v.s0) v.s1) v.s2

/-- R151: `PACK` in any state stores `S0`, `S1`, `S2` little-endian at offsets 0, 4, 8 and the CRC of their input view
at offset 12, leaves that CRC in `CRC`, sets `FV`, and changes no other register. -/
def Obligations.PackBuildsTheFrame : Prop :=
  (∀ imm : Word, decode (commandWord 0x31#8 imm) = .ok .pack) ∧
  (∀ s : State, ∃ t, exec .pack s = .next t ∧
    HoldsFrame t.frame s.speeds (crc32m (speedsView s.speeds)) ∧
    t.crc = crc32m (speedsView s.speeds) ∧ t.fv = true ∧
    t.x = s.x ∧ t.y = s.y ∧ t.w = s.w ∧ t.s0 = s.s0 ∧ t.s1 = s.s1 ∧ t.s2 = s.s2 ∧ t.inputs = s.inputs) ∧
  (∀ s t : State, exec .pack { s with s0 := 0x3FC00000#32, s1 := 0xC0100000#32, s2 := 0x00000000#32 } = .next t →
    t.crc = 0x01ADF487#32 ∧
    frameBytes t.frame = [0x00#8, 0x00#8, 0xC0#8, 0x3F#8, 0x00#8, 0x00#8, 0x10#8, 0xC0#8, 0x00#8, 0x00#8, 0x00#8,
      0x00#8, 0x87#8, 0xF4#8, 0xAD#8, 0x01#8]) ∧
  (∀ s t : State, s.frame.wf → exec .pack s = .next t → exec .pack t = .next t)

/-- The spec's own consequence of R151 (`42_frame_pack.md` R153): `PACK` leaves the same `CRC` as `CRC.INIT` and three
`CRC.WORD` commands with the register values. -/
def Obligations.PackCrcEqualsThreeWordFeeds : Prop :=
  ∀ s : State, ∃ t u, exec .pack s = .next t ∧
    runInstrs [.crcInit, .crcWord s.s0, .crcWord s.s1, .crcWord s.s2] s = .next u ∧
    t.crc = u.crc ∧ t.frame.loadWord 3 = u.crc ∧
    t.crc = updw (updw (updw 0xFFFFFFFF#32 s.s0) s.s1) s.s2

/-- R154: after `PACK` the first three little-endian words of the frame are the three speeds, for every bit pattern. -/
def Obligations.PackKeepsThePayloadBits : Prop :=
  ∀ s : State, ∃ t, exec .pack s = .next t ∧
    t.frame.loadWord 0 = s.s0 ∧ t.frame.loadWord 1 = s.s1 ∧ t.frame.loadWord 2 = s.s2

/-- R51: after `PACK`, `TICK` or `STOP` the sixteen bytes are `S0`, `S1`, `S2` and the CRC word, each little-endian;
as four words they read as those values, and `frame_o` is `{c, S2, S1, S0}` (R55, which the spec marks as derived). -/
def Obligations.FrameAddressMap : Prop :=
  ∀ (i : Instr) (s t : State), i = .pack ∨ i = .tick ∨ i = .stop → exec i s = .next t →
    HoldsFrame t.frame t.speeds t.crc ∧
    t.frame.loadWord 0 = t.s0 ∧ t.frame.loadWord 1 = t.s1 ∧ t.frame.loadWord 2 = t.s2 ∧
    t.frame.loadWord 3 = t.crc ∧
    t.outputs.frameO = t.crc ++ t.s2 ++ t.s1 ++ t.s0

/-- The values the spec computed to tell the readings apart (`42_frame_pack.md` R155): for the example frame the right
CRC is 0x01ADF487; feeding `F[0..11]` in offset order gives 0x0552342D and reversing the whole buffer gives
0x4AE63DEF. -/
def Obligations.WrongCrcReadingsAreToldApart : Prop :=
  let v : Speeds := { s0 := 0x3FC00000#32, s1 := 0xC0100000#32, s2 := 0x00000000#32 }
  let offsetOrder := leBytes v.s0 ++ leBytes v.s1 ++ leBytes v.s2
  crc32m (speedsView v) = 0x01ADF487#32 ∧ crc32m offsetOrder = 0x0552342D#32 ∧
  crc32m offsetOrder.reverse = 0x4AE63DEF#32

/-- The spec's own consequence of R153 and law 3 (`42_frame_pack.md` R156): for a built frame, `FRAME.CHECK` with the
words the host reads from the outputs ends with `CRC = 0`, from any state. -/
def Obligations.FrameSelfCheckEndsWithZero : Prop :=
  ∀ s t u : State, exec .pack s = .next t →
    updw (updw (updw (updw 0xFFFFFFFF#32 t.s0) t.s1) t.s2) (t.frame.loadWord 3) = 0x00000000#32 ∧
    ∃ is, (Pseudo.frameCheck t.s0 t.s1 t.s2 (t.frame.loadWord 3)).expand = some is ∧
      runInstrs is u = .next { u with crc := 0x00000000#32 }

/-- R157: flipping any one of the 96 payload bits changes the CRC word of the frame. -/
def Obligations.FrameCrcDetectsPayloadBitFlips : Prop :=
  (∀ (s t t' : State) (b : Fin 32), exec .pack s = .next t →
    exec .pack { s with s0 := s.s0 ^^^ (0x00000001#32 <<< b.val) } = .next t' ∨
    exec .pack { s with s1 := s.s1 ^^^ (0x00000001#32 <<< b.val) } = .next t' ∨
    exec .pack { s with s2 := s.s2 ^^^ (0x00000001#32 <<< b.val) } = .next t' →
    t'.frame.loadWord 3 ≠ t.frame.loadWord 3) ∧
  crc32m (speedsView { s0 := 0x3FC00001#32, s1 := 0xC0100000#32, s2 := 0x00000000#32 }) = 0xF3AD5EE1#32

/-! The KIN unit and its arithmetic -/

/-- R171: `KIN` computes the datapath of seven products and six sums with the ROM's constants, writes the three speeds
and changes nothing else. -/
def Obligations.KinComputesTheDatapath : Prop :=
  ∀ s : State,
    let pw := fmul 0x3EED7A35#32 s.w
    exec .kin s = .next { s with
      s0 := fadd (fadd (fmul 0xC091835A#32 s.x) (fmul 0x40FC093C#32 s.y)) pw
      s1 := fadd (fadd (fmul 0xC091835A#32 s.x) (fmul 0xC0FC093C#32 s.y)) pw
      s2 := fadd (fadd (fmul 0x4111835A#32 s.x) (fmul 0x00000000#32 s.y)) pw }

/-- R175: the value of every pattern, and that `rn32` is RN32: round to nearest, ties to even, on every positive
rational magnitude. -/
def Obligations.RoundingIsNearestEven : Prop :=
  (∀ b : Word,
    (expField b = 255 → fracField b ≠ 0 → isNaN b = true) ∧
    (expField b = 255 → fracField b = 0 → isInf b = true) ∧
    (expField b = 0 → realValue b =
      (if signBit b = true then -1 else 1) * (fracField b : ℝ) * (2 : ℝ) ^ (-149 : ℤ)) ∧
    (1 ≤ expField b → expField b ≤ 254 → realValue b =
      (if signBit b = true then -1 else 1) * (2 ^ 23 + (fracField b : ℝ)) * (2 : ℝ) ^ ((expField b : ℤ) - 150))) ∧
  (∀ (s : Bool) (num den : Nat), 0 < num → 0 < den →
    IsRN32 ((if s = true then -1 else 1) * ((num : ℝ) / den)) (rn32 s num den)) ∧
  realValue 0x7F7FFFFF#32 = 2 ^ 128 - 2 ^ 104 ∧ realValue 0x00000001#32 = (2 : ℝ) ^ (-149 : ℤ) ∧
  infinity false = 0x7F800000#32 ∧ infinity true = 0xFF800000#32 ∧
  zeroOf false = 0x00000000#32 ∧ zeroOf true = 0x80000000#32

/-- R176: multiplication, case by case; on finite non-zero operands it is RN32 of the exact product. -/
def Obligations.MultiplicationFollowsItsRule : Prop :=
  ∀ a b : Word,
    (isNaN a = true ∨ isNaN b = true → fmul a b = 0x7FC00000#32) ∧
    (isInf a = true ∧ isZero b = true ∨ isZero a = true ∧ isInf b = true → fmul a b = 0x7FC00000#32) ∧
    (isNaN a = false → isNaN b = false → isZero a = false → isZero b = false → isInf a = true ∨ isInf b = true →
      fmul a b = infinity (signBit a ^^ signBit b)) ∧
    (isFinite a = true → isFinite b = true → isZero a = true ∨ isZero b = true →
      fmul a b = zeroOf (signBit a ^^ signBit b)) ∧
    (isFinite a = true → isFinite b = true → isZero a = false → isZero b = false →
      IsRN32 (realValue a * realValue b) (fmul a b)) ∧
    fmul a b = fmul b a

/-- R177: addition, case by case; on finite operands that are not both zeros it is RN32 of the exact sum, +0 when the
sum is 0; a zero operand leaves the other unchanged and a non-zero sum never rounds to zero; it commutes and does not
associate. -/
def Obligations.AdditionFollowsItsRule : Prop :=
  (∀ a b : Word,
    (isNaN a = true ∨ isNaN b = true → fadd a b = 0x7FC00000#32) ∧
    (isInf a = true → isInf b = true → signBit a = signBit b → fadd a b = a) ∧
    (isInf a = true → isInf b = true → signBit a ≠ signBit b → fadd a b = 0x7FC00000#32) ∧
    (isInf a = true → isFinite b = true → fadd a b = a) ∧
    (isFinite a = true → isInf b = true → fadd a b = b) ∧
    (isZero a = true → isZero b = true → signBit a = signBit b → fadd a b = a) ∧
    (isZero a = true → isZero b = true → signBit a ≠ signBit b → fadd a b = 0x00000000#32) ∧
    (isFinite a = true → isFinite b = true → isZero a = false ∨ isZero b = false →
      (realValue a + realValue b = 0 → fadd a b = 0x00000000#32) ∧
      (realValue a + realValue b ≠ 0 →
        IsRN32 (realValue a + realValue b) (fadd a b) ∧ isZero (fadd a b) = false)) ∧
    (isZero a = true → isFinite b = true → isZero b = false → fadd a b = b) ∧
    fadd a b = fadd b a) ∧
  (∃ a b c : Word, fadd (fadd a b) c ≠ fadd a (fadd b c))

/-- Each ROM pattern is RN32 of the real coefficient of the fixed geometry (`10_state.md` R25). -/
def Obligations.RomPatternsAreTheRoundedCoefficients : Prop :=
  (∀ i : Fin 3, IsRN32 (coefficientX referenceGeometry i) referenceRom.kx[i]) ∧
  IsRN32 (coefficientY referenceGeometry 0) referenceRom.ky[0] ∧
  IsRN32 (coefficientY referenceGeometry 1) referenceRom.ky[1] ∧
  coefficientY referenceGeometry 2 = 0 ∧ referenceRom.ky[2] = 0x00000000#32 ∧
  IsRN32 (coefficientW referenceGeometry) referenceRom.kw

/-- The spec's own consequence of R172 (`43_kinematics.md` R173): the document's polar transform is the constant matrix,
over the reals and for every geometry, and the matrix of the fixed geometry is the one written out. -/
def Obligations.PolarTransformIsTheMatrix : Prop :=
  (∀ (g : Geometry) (i : Fin 3) (x y r : ℝ), polarWheelSpeed g i x y r = matrixWheelSpeed g i x y r) ∧
  (∀ x y r : ℝ,
    let M := metricToWheelUnits referenceGeometry
    matrixWheelSpeed referenceGeometry 0 x y r = -(M / 2) * x + (M * √3 / 2) * y + 0.051 * M * r ∧
    matrixWheelSpeed referenceGeometry 1 x y r = -(M / 2) * x - (M * √3 / 2) * y + 0.051 * M * r ∧
    matrixWheelSpeed referenceGeometry 2 x y r = M * x + 0.051 * M * r)

/-- `KIN` realises the document's transform: when no result overflows and no product falls in the subnormal range, each
speed differs from the real wheel speed by at most `((1 + u)^4 - 1)` times the sum of the three terms' magnitudes, with
`u = 2^-24` (`43_kinematics.md` R172, R174). -/
def Obligations.KinIsCloseToTheTransform : Prop :=
  ∀ (s t : State) (i : Fin 3),
    isFinite s.x = true → isFinite s.y = true → isFinite s.w = true →
    ProductInNormalRange referenceRom.kx[i] s.x → ProductInNormalRange referenceRom.ky[i] s.y →
    ProductInNormalRange referenceRom.kw s.w →
    exec .kin s = .next t → isFinite (t.speeds.get i) = true →
    |realValue (t.speeds.get i) -
        polarWheelSpeed referenceGeometry i (realValue s.x) (realValue s.y) (realValue s.w)| ≤
      ((1 + 1 / 2 ^ 24) ^ 4 - 1) *
        (|coefficientX referenceGeometry i * realValue s.x| + |coefficientY referenceGeometry i * realValue s.y| +
          |coefficientW referenceGeometry * realValue s.w|)

/-- Items 1 and 2 of R181. The zero intent gives three speeds +0, and zeros of either sign give zeros. A pure rotation
gives three speeds equal to `fmul(KW, W)`, bit for bit, for every finite `W` but the zeros and 0x80000001, and they
are not zero but for the two smallest subnormals, whose product rounds to zero. (Item 2 does not except `W` =
0x80000001 from "bit for bit"; there R176 and R177 give zeros of unlike signs: log entry 12.) -/
def Obligations.ZeroIntentAndPureRotation : Prop :=
  (∀ s t : State, s.x = 0x00000000#32 → s.y = 0x00000000#32 → s.w = 0x00000000#32 → exec .kin s = .next t →
    t.s0 = 0x00000000#32 ∧ t.s1 = 0x00000000#32 ∧ t.s2 = 0x00000000#32) ∧
  (∀ s t : State, isZero s.x = true → isZero s.y = true → isZero s.w = true → exec .kin s = .next t →
    isZero t.s0 = true ∧ isZero t.s1 = true ∧ isZero t.s2 = true) ∧
  (∀ s t : State, isZero s.x = true → isZero s.y = true → isFinite s.w = true → isZero s.w = false →
    s.w ≠ 0x80000001#32 → exec .kin s = .next t →
    t.s0 = fmul referenceRom.kw s.w ∧ t.s1 = fmul referenceRom.kw s.w ∧ t.s2 = fmul referenceRom.kw s.w ∧
    (isZero (fmul referenceRom.kw s.w) = true ↔ s.w = 0x00000001#32)) ∧
  (∀ s t : State, isZero s.x = true → isZero s.y = true → s.w = 0x80000001#32 → exec .kin s = .next t →
    isZero (fmul referenceRom.kw s.w) = true ∧ isZero t.s0 = true ∧ isZero t.s1 = true ∧ isZero t.s2 = true)

/-- Items 3 and 4 of R181: for a pure translation along x the speed of wheel index 2 has the greatest magnitude and the
other two have equal magnitudes; for x = 0.1 the three patterns are the stated ones. -/
def Obligations.PureTranslationFavoursWheelThree : Prop :=
  (∀ s t : State, isFinite s.x = true → isZero s.y = true → isZero s.w = true → exec .kin s = .next t →
    (t.s0 &&& 0x7FFFFFFF#32) = (t.s1 &&& 0x7FFFFFFF#32) ∧
    (t.s0 &&& 0x7FFFFFFF#32).toNat ≤ (t.s2 &&& 0x7FFFFFFF#32).toNat ∧
    isNaN t.s0 = false ∧ isNaN t.s1 = false ∧ isNaN t.s2 = false) ∧
  (∀ s t : State, s.x = 0x3DCCCCCD#32 → s.y = 0x00000000#32 → s.w = 0x00000000#32 → exec .kin s = .next t →
    t.s0 = 0xBEE8D22A#32 ∧ t.s1 = 0xBEE8D22A#32 ∧ t.s2 = 0x3F68D22A#32)

/-- Item 5 of R181: with |x|, |y|, |rotation| each at most 10^36 no result overflows. -/
def Obligations.ModerateIntentsDoNotOverflow : Prop :=
  ∀ s t : State, isFinite s.x = true → isFinite s.y = true → isFinite s.w = true →
    |binary32Value s.x| ≤ 10 ^ 36 → |binary32Value s.y| ≤ 10 ^ 36 → |binary32Value s.w| ≤ 10 ^ 36 →
    exec .kin s = .next t →
    isFinite t.s0 = true ∧ isFinite t.s1 = true ∧ isFinite t.s2 = true

/-- From `43_kinematics.md` R179: every NaN the arithmetic produces is the canonical one; a NaN input makes all three
speeds NaN; an infinite `Y` makes `S2` NaN; and with finite products of the other inputs an infinite `X` or `Y` gives
the stated infinities. (The rule says "finite `Y`, `W`" where the arithmetic needs their products finite: log
entry 11.) -/
def Obligations.NanAndInfinityThroughTheDatapath : Prop :=
  (∀ a b : Word, (isNaN (fmul a b) = true → fmul a b = 0x7FC00000#32) ∧
    (isNaN (fadd a b) = true → fadd a b = 0x7FC00000#32)) ∧
  (∀ s t : State, exec .kin s = .next t →
    (isNaN s.x = true ∨ isNaN s.y = true ∨ isNaN s.w = true →
      t.s0 = 0x7FC00000#32 ∧ t.s1 = 0x7FC00000#32 ∧ t.s2 = 0x7FC00000#32) ∧
    (isInf s.y = true → t.s2 = 0x7FC00000#32) ∧
    (isInf s.y = true → isFinite (fmul referenceRom.kx[0] s.x) = true → isFinite (fmul referenceRom.kw s.w) = true →
      t.s0 = infinity (signBit s.y) ∧ t.s1 = infinity (!signBit s.y)) ∧
    (isInf s.x = true → isFinite s.y = true → isFinite (fmul referenceRom.ky[0] s.y) = true →
      isFinite (fmul referenceRom.kw s.w) = true →
      t.s0 = infinity (!signBit s.x) ∧ t.s1 = infinity (!signBit s.x) ∧ t.s2 = infinity (signBit s.x)) ∧
    (∀ i : Fin 3,
      let tr := fadd (fmul referenceRom.kx[i] s.x) (fmul referenceRom.ky[i] s.y)
      let pw := fmul referenceRom.kw s.w
      isInf tr = true → isInf pw = true → signBit tr ≠ signBit pw → t.speeds.get i = 0x7FC00000#32))

/-! TICK and STOP -/

/-- R200: `TICK` leaves exactly the state that `KIN` and then `PACK` leave: the kinematics of the intent in the speeds,
their frame, its CRC in `CRC`, `FV` set, the intent unchanged. -/
def Obligations.TickIsKinThenPack : Prop :=
  (∀ imm : Word, decode (commandWord 0x32#8 imm) = .ok .tick) ∧
  (∀ s : State, ∃ t, exec .tick s = .next t ∧ runInstrs [.kin, .pack] s = .next t ∧
    t.speeds = kinDatapath referenceRom s.x s.y s.w ∧
    HoldsFrame t.frame t.speeds (crc32m (speedsView t.speeds)) ∧
    t.crc = crc32m (speedsView t.speeds) ∧ t.fv = true ∧
    t.x = s.x ∧ t.y = s.y ∧ t.w = s.w ∧ t.inputs = s.inputs) ∧
  (∀ s t : State, s.x = 0x3DCCCCCD#32 → s.y = 0x00000000#32 → s.w = 0x00000000#32 → exec .tick s = .next t →
    t.s0 = 0xBEE8D22A#32 ∧ t.s1 = 0xBEE8D22A#32 ∧ t.s2 = 0x3F68D22A#32 ∧ t.crc = 0x2D226A66#32 ∧
    frameBytes t.frame = [0x2A#8, 0xD2#8, 0xE8#8, 0xBE#8, 0x2A#8, 0xD2#8, 0xE8#8, 0xBE#8, 0x2A#8, 0xD2#8, 0x68#8,
      0x3F#8, 0x66#8, 0x6A#8, 0x22#8, 0x2D#8])

/-- For every configuration of the KIN unit a tick leaves a coherent frame that holds that configuration's result and
has zero residue (`92_eei_decisions.md` D12; log entry 9). -/
def Obligations.TickFrameIsValidForEveryDatapath : Prop :=
  ∀ (c : KinConfig) (s : State),
    FrameCoherent (tickOp c s).frame ∧
    HoldsFrame (tickOp c s).frame (c.kin32 s.x s.y s.w) (tickOp c s).crc ∧
    updw (updw (updw (updw 0xFFFFFFFF#32 (c.kin32 s.x s.y s.w).s0) (c.kin32 s.x s.y s.w).s1)
      (c.kin32 s.x s.y s.w).s2) ((tickOp c s).frame.loadWord 3) = 0x00000000#32

/-- R201: `STOP` in any state clears the intent and the speeds to +0.0 and builds the zero-speed frame; from a canonical
frame buffer the result is always the same state, which another `STOP` and a `TICK` leave as it is; a frame with -0.0 is
another frame. -/
def Obligations.StopBuildsTheZeroSpeedFrame : Prop :=
  (∀ imm : Word, decode (commandWord 0x01#8 imm) = .ok .stop) ∧
  (∀ s : State, ∃ t, exec .stop s = .next t ∧
    t.x = 0x00000000#32 ∧ t.y = 0x00000000#32 ∧ t.w = 0x00000000#32 ∧
    t.s0 = 0x00000000#32 ∧ t.s1 = 0x00000000#32 ∧ t.s2 = 0x00000000#32 ∧
    t.crc = 0x099C5421#32 ∧ t.fv = true ∧ t.inputs = s.inputs ∧
    frameBytes t.frame = List.replicate 12 0x00#8 ++ [0x21#8, 0x54#8, 0x9C#8, 0x09#8]) ∧
  (∀ s : State, s.frame.wf →
    let t := { State.reset with
      crc := 0x099C5421#32, fv := true, inputs := s.inputs
      frame := [(12, 0x21#8), (13, 0x54#8), (14, 0x9C#8), (15, 0x09#8)] }
    exec .stop s = .next t ∧ exec .stop t = .next t ∧ exec .tick t = .next t) ∧
  crc32m (speedsView { s0 := 0x80000000#32, s1 := 0x00000000#32, s2 := 0x00000000#32 }) ≠ 0x099C5421#32

/-- A `TICK`, `PACK` or `STOP` as the first command after reset builds the zero-speed frame, and a `CRC.BYTE` sequence
may start without `CRC.INIT` (`70_reset_and_hazards.md` R242). -/
def Obligations.FirstCommandAfterReset : Prop :=
  (∀ i : Instr, i = .tick ∨ i = .pack ∨ i = .stop → ∃ t, exec i State.reset = .next t ∧ t.fv = true ∧
    frameBytes t.frame = List.replicate 12 0x00#8 ++ [0x21#8, 0x54#8, 0x9C#8, 0x09#8]) ∧
  (∀ bytes : List Byte, ∃ t, runInstrs (bytes.map .crcByte) State.reset = .next t ∧ t.crc = crc32m bytes)

/-- The last writer of the speeds wins, register by register (`44_sequencing.md` R202): a load between `KIN` and
`PACK` decides its wheel of the frame and no other, loads of all three decide the whole frame, and a `KIN` or a `TICK`
gives the kinematics of the intent whatever was loaded. -/
def Obligations.LastWriterOfSpeedsWins : Prop :=
  ∀ s : State,
    let k := kinDatapath referenceRom s.x s.y s.w
    (∀ v : Word,
      (∃ t, runInstrs [.kin, .ldS0 v, .pack] s = .next t ∧
        t.frame.loadWord 0 = v ∧ t.frame.loadWord 1 = k.s1 ∧ t.frame.loadWord 2 = k.s2) ∧
      (∃ t, runInstrs [.kin, .ldS1 v, .pack] s = .next t ∧
        t.frame.loadWord 0 = k.s0 ∧ t.frame.loadWord 1 = v ∧ t.frame.loadWord 2 = k.s2) ∧
      (∃ t, runInstrs [.kin, .ldS2 v, .pack] s = .next t ∧
        t.frame.loadWord 0 = k.s0 ∧ t.frame.loadWord 1 = k.s1 ∧ t.frame.loadWord 2 = v)) ∧
    (∀ a b c : Word,
      (∃ t, runInstrs [.kin, .ldS0 a, .ldS1 b, .ldS2 c, .pack] s = .next t ∧
        t.frame.loadWord 0 = a ∧ t.frame.loadWord 1 = b ∧ t.frame.loadWord 2 = c) ∧
      (∃ t, runInstrs [.ldS0 a, .ldS1 b, .ldS2 c, .kin, .pack] s = .next t ∧ t.speeds = k ∧
        t.frame.loadWord 0 = k.s0 ∧ t.frame.loadWord 1 = k.s1 ∧ t.frame.loadWord 2 = k.s2) ∧
      (∃ t, runInstrs [.ldS0 a, .ldS1 b, .ldS2 c, .tick] s = .next t ∧ t.speeds = k ∧
        t.frame.loadWord 0 = k.s0 ∧ t.frame.loadWord 1 = k.s1 ∧ t.frame.loadWord 2 = k.s2))

/-- R79: each pseudo-instruction has its exact expansion, and running it does what its contract says; an operand list of
SPEEDS of another length than three has no expansion (`93_implementation_defined.md` U3; the layer: log entry 14). -/
def Obligations.PseudoInstructionsDoWhatTheySay : Prop :=
  (∀ (bytes : List Byte) (s : State), ∃ is, (Pseudo.crcCompute bytes).expand = some is ∧
    is = .crcInit :: bytes.map .crcByte ∧ runInstrs is s = .next { s with crc := crc32m bytes }) ∧
  (∀ (a b c : Word) (s : State), ∃ is t, (Pseudo.speeds [a, b, c]).expand = some is ∧
    is = [.ldS0 a, .ldS1 b, .ldS2 c, .pack] ∧ runInstrs is s = .next t ∧
    exec .pack { s with s0 := a, s1 := b, s2 := c } = .next t) ∧
  (∀ values : List Word, (Pseudo.speeds values).expand = none ↔ values.length ≠ 3) ∧
  (∀ (a b c : Word) (s : State), ∃ is, (Pseudo.intent a b c).expand = some is ∧
    is = [.ldX a, .ldY b, .ldW c] ∧ runInstrs is s = .next { s with x := a, y := b, w := c }) ∧
  (∀ (a b c : Word) (s : State), ∃ is t, (Pseudo.drive a b c).expand = some is ∧
    is = [.ldX a, .ldY b, .ldW c, .tick] ∧ runInstrs is s = .next t ∧
    exec .tick { s with x := a, y := b, w := c } = .next t) ∧
  (∀ (a b c d : Word) (s : State), ∃ is, (Pseudo.frameCheck a b c d).expand = some is ∧
    is = [.crcInit, .crcWord a, .crcWord b, .crcWord c, .crcWord d] ∧
    runInstrs is s = .next { s with crc := updw (updw (updw (updw 0xFFFFFFFF#32 a) b) c) d })

/-! Whole-machine rules -/

/-- The invariant holds at reset (`10_state.md` R33). -/
def Obligations.InvariantHoldsAtReset : Prop := Inv State.reset

/-- Every step keeps the invariant: the frame buffer stays in canonical form, and `FV` says truly whether it holds a
frame or still the reset pattern (`10_state.md` R26, R28). -/
def Obligations.EveryStepKeepsTheInvariant : Prop :=
  ∀ s t : State, Inv s → step s = .next t → Inv t

/-- Nothing but reset clears `FV`, and nothing but an accepted `PACK`, `TICK` or `STOP` sets it; nothing but these three
and reset changes a byte of the frame buffer (`10_state.md` R26, R28). -/
def Obligations.FrameAndFvChangeOnlyByTheirCommands : Prop :=
  ∀ s t : State, step s = .next t →
    (s.fv = true → t.fv = false → ∃ p rest, s.inputs = p :: rest ∧ p.rst = true) ∧
    (s.fv = false → t.fv = true → ∃ p rest, s.inputs = p :: rest ∧ p.rst = false ∧ p.cmdValid = true ∧
      (decode p.cmd = .ok .pack ∨ decode p.cmd = .ok .tick ∨ decode p.cmd = .ok .stop)) ∧
    ((∃ a, t.frame.read a ≠ s.frame.read a) → ∃ p rest, s.inputs = p :: rest ∧
      (p.rst = true ∨ p.rst = false ∧ p.cmdValid = true ∧
        (decode p.cmd = .ok .pack ∨ decode p.cmd = .ok .tick ∨ decode p.cmd = .ok .stop)))

/-- The `w` entries of the access matrix (`10_state.md` R32): a command changes no component its row does not mark, and
not what the host has still to present. -/
def Obligations.CommandsWriteOnlyTheirRow : Prop :=
  ∀ (i : Instr) (s t : State), exec i s = .next t →
    (∀ c : Component, c ∉ writesOf i → c.same s t) ∧ t.inputs = s.inputs

/-- The `r` entries of the access matrix (`10_state.md` R32): what a command writes depends on nothing but the
components its row marks as read; `PACK` does not read the old `CRC` or the old frame. -/
def Obligations.CommandsReadOnlyTheirRow : Prop :=
  ∀ (i : Instr) (s s' t t' : State), (∀ c ∈ readsOf i, c.same s s') →
    exec i s = .next t → exec i s' = .next t' → ∀ c ∈ writesOf i, c.same t t'

/-- The block's state is exactly 353 bits, the nine pieces of `10_state.md` R20 and nothing else: 353 bits and blocks
whose frame buffer is in canonical form stand for each other one to one; and the samples still to come, the model's
own field beside the block, are neither read nor written by a command (the form of the frame buffer and the order of
the bits are the model's: log entry 7; the samples: log entry 1). -/
def Obligations.BlockIsExactly353Bits : Prop :=
  (∀ v : BitVec 353, (Block.ofBits v).frame.wf ∧ (Block.ofBits v).bits = v) ∧
  (∀ b : Block, b.frame.wf → Block.ofBits b.bits = b) ∧
  (∀ (i : Instr) (s : State), ∃ b : Block, ∀ l : List PortSample,
    exec i { s with inputs := l } = .next { b with inputs := l })
end

