-- ==== Sys2Proof/Laws/Binary32.lean ====
section
/-! SUPPORT. One lemma per case of fmul and fadd, in the rules' order of tests (`43_kinematics.md` R176, R177), and the
facts about classes those cases need. -/

namespace Sys2Proof.Machine

/-- An infinity is no NaN. -/
theorem not_isNaN_of_isInf {a : Word} (h : isInf a = true) : isNaN a = false := by
  simp_all [isInf, isNaN]

/-- A zero is no NaN. -/
theorem not_isNaN_of_isZero {a : Word} (h : isZero a = true) : isNaN a = false := by
  simp_all [isZero, isNaN]

/-- A zero is no infinity. -/
theorem not_isInf_of_isZero {a : Word} (h : isZero a = true) : isInf a = false := by
  simp_all [isZero, isInf]

/-- A finite pattern is no NaN. -/
theorem not_isNaN_of_isFinite {a : Word} (h : isFinite a = true) : isNaN a = false := by
  simp_all [isFinite, isNaN]

/-- A finite pattern is no infinity. -/
theorem not_isInf_of_isFinite {a : Word} (h : isFinite a = true) : isInf a = false := by
  simp_all [isFinite, isInf]

/-- A zero is finite. -/
theorem isFinite_of_isZero {a : Word} (h : isZero a = true) : isFinite a = true := by
  simp_all [isZero, isFinite]

/-! fmul -/

theorem fmul_nan {a b : Word} (h : isNaN a = true ∨ isNaN b = true) : fmul a b = canonicalNaN := by
  rcases h with h | h <;> simp [fmul, h]

theorem fmul_invalid {a b : Word} (h : isInf a = true ∧ isZero b = true ∨ isZero a = true ∧ isInf b = true) :
    fmul a b = canonicalNaN := by
  rcases h with ⟨h1, h2⟩ | ⟨h1, h2⟩ <;> simp [fmul, h1, h2]

theorem fmul_finite {a b : Word} (ha : isFinite a = true) (hb : isFinite b = true) (ha0 : isZero a = false)
    (hb0 : isZero b = false) :
    fmul a b = rn32 (signBit a ^^ signBit b) (magnitude a * magnitude b) (2 ^ 149 * 2 ^ 149) := by
  simp [fmul, not_isNaN_of_isFinite ha, not_isNaN_of_isFinite hb, not_isInf_of_isFinite ha,
    not_isInf_of_isFinite hb, ha0, hb0]

theorem fmul_zero {a b : Word} (ha : isFinite a = true) (hb : isFinite b = true)
    (h : isZero a = true ∨ isZero b = true) : fmul a b = zeroOf (signBit a ^^ signBit b) := by
  rcases h with h | h <;>
    simp [fmul, not_isNaN_of_isFinite ha, not_isNaN_of_isFinite hb, not_isInf_of_isFinite ha,
      not_isInf_of_isFinite hb, h]

/-! fadd -/

theorem fadd_nan {a b : Word} (h : isNaN a = true ∨ isNaN b = true) : fadd a b = canonicalNaN := by
  rcases h with h | h <;> simp [fadd, h]

theorem fadd_inf_inf {a b : Word} (ha : isInf a = true) (hb : isInf b = true) :
    fadd a b = if signBit a = signBit b then a else canonicalNaN := by
  simp [fadd, not_isNaN_of_isInf ha, not_isNaN_of_isInf hb, ha, hb]

theorem fadd_inf_finite {a b : Word} (ha : isInf a = true) (hb : isFinite b = true) : fadd a b = a := by
  simp [fadd, not_isNaN_of_isInf ha, not_isNaN_of_isFinite hb, ha, not_isInf_of_isFinite hb]

theorem fadd_finite_inf {a b : Word} (ha : isFinite a = true) (hb : isInf b = true) : fadd a b = b := by
  simp [fadd, not_isNaN_of_isInf hb, not_isNaN_of_isFinite ha, hb, not_isInf_of_isFinite ha]

theorem fadd_zeros {a b : Word} (ha : isZero a = true) (hb : isZero b = true) :
    fadd a b = if signBit a = signBit b then a else zeroOf false := by
  simp [fadd, not_isNaN_of_isZero ha, not_isNaN_of_isZero hb, not_isInf_of_isZero ha, not_isInf_of_isZero hb, ha, hb]

theorem fadd_finite {a b : Word} (ha : isFinite a = true) (hb : isFinite b = true)
    (h : isZero a = false ∨ isZero b = false) :
    fadd a b = if scaledValue a + scaledValue b = 0 then zeroOf false
      else rn32 (decide (scaledValue a + scaledValue b < 0)) (scaledValue a + scaledValue b).natAbs (2 ^ 149) := by
  rcases h with h | h <;>
    simp [fadd, not_isNaN_of_isFinite ha, not_isNaN_of_isFinite hb, not_isInf_of_isFinite ha,
      not_isInf_of_isFinite hb, h]

end Sys2Proof.Machine
end

