-- ==== Sys2Proof/Laws/Crc.lean ====
section
/-! SUPPORT. The CRC unit: its functions unfolded once, and the XOR of two conditional shift steps. -/

namespace Sys2Proof.Machine

/-- The block's variant feeds a byte as it is. -/
@[simp] theorem inputByte_crcParams (b : Byte) : inputByte crcParams b = b := rfl

/-- The block's variant gives the register as it stands. -/
@[simp] theorem crcResult_crcParams (c : Word) : crcResult crcParams c = c := by
  simp [crcResult, crcParams]

/-- `upd1` as its conditional shift step. -/
theorem upd1_eq (c : Word) (b : Bool) : upd1 c b = shiftStep crcParams c (c.msb ^^ b) := rfl

/-- The whole function from the initial register, with nothing done to the result. -/
theorem crc32m_eq (bytes : List Byte) : crc32m bytes = crcFrom 0xFFFFFFFF#32 bytes :=
  crcResult_crcParams _

/-- `upd8` as its eight data bits. -/
theorem upd8_eq (c : Word) (b : Byte) : upd8 c b =
    upd1 (upd1 (upd1 (upd1 (upd1 (upd1 (upd1 (upd1 c (b.getLsbD 7)) (b.getLsbD 6)) (b.getLsbD 5)) (b.getLsbD 4))
      (b.getLsbD 3)) (b.getLsbD 2)) (b.getLsbD 1)) (b.getLsbD 0) := rfl

@[simp] theorem crcFrom_nil (c : Word) : crcFrom c [] = c := rfl

@[simp] theorem crcFrom_cons (c : Word) (b : Byte) (bs : List Byte) :
    crcFrom c (b :: bs) = crcFrom (upd8 c b) bs := rfl

/-- The bytes of two lists one after the other. -/
theorem crcFrom_append (c : Word) (as bs : List Byte) : crcFrom c (as ++ bs) = crcFrom (crcFrom c as) bs := by
  simp [crcFrom, List.foldl_append]

/-- The conditional shift step is linear over XOR in the register and the feedback bit together. -/
theorem shiftStep_xor (p : CrcParams) (c d : Word) (a b : Bool) :
    shiftStep p (c ^^^ d) (a ^^ b) = shiftStep p c a ^^^ shiftStep p d b := by
  cases a <;> cases b <;>
    simp only [shiftStep, BitVec.shiftLeft_xor_distrib, Bool.xor_false, Bool.xor_true, Bool.not_false,
      Bool.not_true, if_true, if_false, Bool.false_eq_true] <;>
    (apply BitVec.eq_of_getLsbD_eq; intro i _; simp only [BitVec.getLsbD_xor]) <;>
    generalize BitVec.getLsbD _ i = p <;> generalize BitVec.getLsbD _ i = q <;>
    generalize BitVec.getLsbD _ i = r <;> cases p <;> cases q <;> cases r <;> rfl

/-- One data bit is linear over XOR in the register and the bit together (the reason of `41_crc.md` R130). -/
theorem upd1_xor (c d : Word) (a b : Bool) : upd1 (c ^^^ d) (a ^^ b) = upd1 c a ^^^ upd1 d b := by
  have h : ((c ^^^ d).msb ^^ (a ^^ b)) = ((c.msb ^^ a) ^^ (d.msb ^^ b)) := by
    rw [BitVec.msb_xor]
    cases c.msb <;> cases d.msb <;> cases a <;> cases b <;> rfl
  rw [upd1_eq, upd1_eq, upd1_eq, h, shiftStep_xor]

end Sys2Proof.Machine
end

