-- ==== Sys2Proof/Laws/Memory.lean ====
section
/-! SUPPORT. The laws of the frame buffer: read after write, on any list of cells; every operation keeps the canonical
form; canonical contents that read alike are equal. -/

namespace Sys2Proof.Machine

/-! Reading one byte -/

@[simp] theorem Memory.read_nil (a : Offset) : Memory.read [] a = 0x00#8 := rfl

theorem Memory.read_cons (k : Nat) (b : Byte) (rest : Memory) (a : Offset) :
    Memory.read ((k, b) :: rest) a = if k = a.val then b else Memory.read rest a := rfl

theorem Memory.read_dropCell_same (m : Memory) (a : Offset) : (m.dropCell a).read a = 0x00#8 := by
  induction m with
  | nil => rfl
  | cons c rest ih =>
    obtain ⟨k, b⟩ := c
    by_cases h : k = a.val
    · simpa [Memory.dropCell, h] using ih
    · simpa [Memory.dropCell, h, Memory.read_cons] using ih

theorem Memory.read_dropCell_other (m : Memory) {a b : Offset} (hab : b ≠ a) :
    (m.dropCell a).read b = m.read b := by
  have hv : a.val ≠ b.val := fun h => hab (Fin.ext h.symm)
  induction m with
  | nil => rfl
  | cons c rest ih =>
    obtain ⟨k, d⟩ := c
    by_cases h : k = a.val
    · subst h
      simpa [Memory.dropCell, Memory.read_cons, hv] using ih
    · have hne : Memory.dropCell ((k, d) :: rest) a = (k, d) :: Memory.dropCell rest a := by simp [Memory.dropCell, h]
      rw [hne, Memory.read_cons, Memory.read_cons, ih]

theorem Memory.read_insertCell_same (m : Memory) (a : Offset) (b : Byte) (h : ∀ c ∈ m, c.1 ≠ a.val) :
    (m.insertCell a b).read a = b := by
  induction m with
  | nil => simp [Memory.insertCell, Memory.read_cons]
  | cons c rest ih =>
    obtain ⟨k, d⟩ := c
    have hk : k ≠ a.val := h (k, d) (by simp)
    have hrest := ih fun c hc => h c (by simp [hc])
    by_cases hlt : a.val < k
    · simp [Memory.insertCell, Memory.read_cons, hlt]
    · simp [Memory.insertCell, Memory.read_cons, hlt, hk, hrest]

theorem Memory.read_insertCell_other (m : Memory) {a a' : Offset} (b : Byte) (hab : a' ≠ a) :
    (m.insertCell a b).read a' = m.read a' := by
  have hv : a.val ≠ a'.val := fun h => hab (Fin.ext h.symm)
  induction m with
  | nil => simp [Memory.insertCell, Memory.read_cons, hv]
  | cons c rest ih =>
    obtain ⟨k, d⟩ := c
    by_cases hlt : a.val < k
    · simp [Memory.insertCell, Memory.read_cons, hlt, hv]
    · simp [Memory.insertCell, Memory.read_cons, hlt, ih]

theorem Memory.mem_dropCell {m : Memory} {a : Offset} {c : Host.Cell} :
    c ∈ m.dropCell a ↔ c ∈ m ∧ c.1 ≠ a.val := by
  simp [Memory.dropCell]

/-- A byte read after it was written is the byte written. -/
@[simp] theorem Memory.read_write_same (m : Memory) (a : Offset) (b : Byte) : (m.write a b).read a = b := by
  unfold Memory.write
  split
  · rename_i h
    rw [Memory.read_dropCell_same, h, Memory.unlisted]
  · exact Memory.read_insertCell_same _ _ _ fun c hc => (Memory.mem_dropCell.mp hc).2

/-- A write leaves every other byte alone. -/
@[simp] theorem Memory.read_write_other (m : Memory) {a a' : Offset} (b : Byte) (h : a' ≠ a) :
    (m.write a b).read a' = m.read a' := by
  unfold Memory.write
  split
  · exact Memory.read_dropCell_other m h
  · rw [Memory.read_insertCell_other _ _ h, Memory.read_dropCell_other m h]

/-! The canonical form -/

theorem Memory.wf_nil : Memory.wf [] := by simp [Memory.wf]

theorem Memory.wf_dropCell {m : Memory} (h : m.wf) (a : Offset) : (m.dropCell a).wf :=
  ⟨h.1.filter _, fun c hc => h.2 c (Memory.mem_dropCell.mp hc).1⟩

theorem Memory.mem_insertCell {m : Memory} {a : Offset} {b : Byte} {c : Host.Cell}
    (h : c ∈ m.insertCell a b) : c = (a.val, b) ∨ c ∈ m := by
  induction m with
  | nil => simpa [Memory.insertCell] using h
  | cons d rest ih =>
    obtain ⟨k, e⟩ := d
    unfold Memory.insertCell at h
    split at h
    · simpa using h
    · rcases List.mem_cons.mp h with h | h
      · exact .inr (by simp [h])
      · rcases ih h with h | h
        · exact .inl h
        · exact .inr (by simp [h])

theorem Memory.wf_insertCell {m : Memory} (h : m.wf) {a : Offset} {b : Byte} (hb : b ≠ Memory.unlisted)
    (ha : ∀ c ∈ m, c.1 ≠ a.val) : (m.insertCell a b).wf := by
  induction m with
  | nil => simp [Memory.insertCell, Memory.wf, hb]
  | cons d rest ih =>
    obtain ⟨k, e⟩ := d
    obtain ⟨hp, hm⟩ := h
    obtain ⟨hk, hrest⟩ := List.pairwise_cons.mp hp
    have hka : k ≠ a.val := ha (k, e) (by simp)
    unfold Memory.insertCell
    split
    · rename_i hlt
      refine ⟨List.pairwise_cons.mpr ⟨fun c hc => ?_, hp⟩, fun c hc => ?_⟩
      · rcases List.mem_cons.mp hc with rfl | hc
        · exact hlt
        · exact lt_trans hlt (hk c hc)
      · rcases List.mem_cons.mp hc with rfl | hc
        · exact ⟨a.isLt, hb⟩
        · exact hm c hc
    · rename_i hlt
      have hi := ih ⟨hrest, fun c hc => hm c (by simp [hc])⟩ fun c hc => ha c (by simp [hc])
      refine ⟨List.pairwise_cons.mpr ⟨fun c hc => ?_, hi.1⟩, fun c hc => ?_⟩
      · rcases Memory.mem_insertCell hc with rfl | hc
        · show k < a.val
          omega
        · exact hk c hc
      · rcases List.mem_cons.mp hc with rfl | hc
        · exact hm _ (by simp)
        · exact hi.2 c hc

/-- Every write keeps the canonical form. -/
theorem Memory.wf_write {m : Memory} (h : m.wf) (a : Offset) (b : Byte) : (m.write a b).wf := by
  unfold Memory.write
  split
  · exact Memory.wf_dropCell h a
  · rename_i hb
    exact Memory.wf_insertCell (Memory.wf_dropCell h a) hb fun c hc => (Memory.mem_dropCell.mp hc).2

/-- Every word store keeps the canonical form. -/
theorem Memory.wf_storeWord {m : Memory} (h : m.wf) (k : Fin 4) (v : Word) : (m.storeWord k v).wf :=
  Memory.wf_write (Memory.wf_write (Memory.wf_write (Memory.wf_write h _ _) _ _) _ _) _ _

/-! One word of the frame -/

/-- Offsets of different words, and of different bytes of a word, are different. -/
theorem frameOffset_inj {k k' j j' : Fin 4} (h : frameOffset k j = frameOffset k' j') : k = k' ∧ j = j' := by
  have h' : 4 * k.val + j.val = 4 * k'.val + j'.val := congrArg Fin.val h
  constructor <;> apply Fin.ext <;> omega

/-- Every offset is a byte of one of the four words. -/
theorem exists_frameOffset (a : Offset) : ∃ k j : Fin 4, a = frameOffset k j :=
  ⟨⟨a.val / 4, by omega⟩, ⟨a.val % 4, by omega⟩, Fin.ext (by simp only [frameOffset]; omega)⟩

/-- The four bytes of a word that was stored. -/
@[simp] theorem Memory.read_storeWord_same (m : Memory) (k j : Fin 4) (v : Word) :
    (m.storeWord k v).read (frameOffset k j) = byteOf v j := by
  have hne : ∀ i i' : Fin 4, i ≠ i' → frameOffset k i ≠ frameOffset k i' := fun i i' h e =>
    h (frameOffset_inj e).2
  unfold Memory.storeWord
  fin_cases j <;> simp [hne]

/-- A word store leaves the bytes of every other word alone. -/
@[simp] theorem Memory.read_storeWord_other (m : Memory) {k k' : Fin 4} (j : Fin 4) (v : Word) (h : k' ≠ k) :
    (m.storeWord k v).read (frameOffset k' j) = m.read (frameOffset k' j) := by
  have hne : ∀ i : Fin 4, frameOffset k' j ≠ frameOffset k i := fun i e => h (frameOffset_inj e).1
  unfold Memory.storeWord
  simp [hne]

/-- A word put together from its own bytes. -/
@[simp] theorem wordOf_byteOf (v : Word) : wordOf (byteOf v 0) (byteOf v 1) (byteOf v 2) (byteOf v 3) = v := by
  apply BitVec.eq_of_getLsbD_eq
  intro i hi
  simp only [wordOf, byteOf, BitVec.getLsbD_append, BitVec.getLsbD_extractLsb']
  interval_cases i <;> simp

/-- The bytes of a word put together from four. -/
theorem byteOf_wordOf (b0 b1 b2 b3 : Byte) (j : Fin 4) :
    byteOf (wordOf b0 b1 b2 b3) j = [b0, b1, b2, b3][j] := by
  apply BitVec.eq_of_getLsbD_eq
  intro i hi
  fin_cases j <;> simp only [wordOf, byteOf, BitVec.getLsbD_append, BitVec.getLsbD_extractLsb'] <;>
    interval_cases i <;> simp

/-- A word put together from four bytes, at the low end of a longer value. -/
theorem append_wordOf {n : Nat} (x : BitVec n) (b0 b1 b2 b3 : Byte) :
    x ++ wordOf b0 b1 b2 b3 = x ++ b3 ++ b2 ++ b1 ++ b0 := by
  apply BitVec.eq_of_getLsbD_eq
  intro i _
  simp only [wordOf, BitVec.getLsbD_append]
  split_ifs <;> first | rfl | omega

/-- A word loaded after it was stored is the word stored. -/
@[simp] theorem Memory.loadWord_storeWord_same (m : Memory) (k : Fin 4) (v : Word) :
    (m.storeWord k v).loadWord k = v := by
  simp [Memory.loadWord]

/-- A word store leaves the other words alone. -/
@[simp] theorem Memory.loadWord_storeWord_other (m : Memory) {k k' : Fin 4} (v : Word) (h : k' ≠ k) :
    (m.storeWord k v).loadWord k' = m.loadWord k' := by
  simp [Memory.loadWord, h]

/-! Canonical contents are determined by what they read as -/

theorem Memory.read_of_forall_gt {m : Memory} {a : Offset} (h : ∀ c ∈ m, a.val < c.1) :
    m.read a = Memory.unlisted := by
  induction m with
  | nil => rfl
  | cons d rest ih =>
    obtain ⟨k, e⟩ := d
    have hk : a.val < k := h (k, e) (by simp)
    rw [Memory.read_cons, if_neg (by omega), ih fun c hc => h c (by simp [hc])]

theorem Memory.wf_tail {c : Host.Cell} {rest : Memory} (h : Memory.wf (c :: rest)) : Memory.wf rest :=
  ⟨(List.pairwise_cons.mp h.1).2, fun d hd => h.2 d (by simp [hd])⟩

theorem Memory.head_lt {c : Host.Cell} {rest : Memory} (h : Memory.wf (c :: rest)) : ∀ d ∈ rest, c.1 < d.1 :=
  (List.pairwise_cons.mp h.1).1

/-- The head of a canonical list reads as itself, and is not what an unlisted offset reads as. -/
theorem Memory.read_head {k : Nat} {b : Byte} {rest : Memory} (h : Memory.wf ((k, b) :: rest)) :
    ∃ hk : k < 16, Memory.read ((k, b) :: rest) ⟨k, hk⟩ = b ∧ b ≠ Memory.unlisted := by
  obtain ⟨hk, hb⟩ := h.2 (k, b) (by simp)
  exact ⟨hk, by simp [Memory.read_cons], hb⟩

/-- Two canonical contents that read alike at every offset are equal. -/
theorem Memory.ext_read {m n : Memory} (hm : m.wf) (hn : n.wf) (h : ∀ a, m.read a = n.read a) : m = n := by
  induction m generalizing n with
  | nil =>
    cases n with
    | nil => rfl
    | cons d rest =>
      obtain ⟨k, e⟩ := d
      obtain ⟨hk, hr, he⟩ := Memory.read_head hn
      exact absurd ((h ⟨k, hk⟩).trans hr) (Ne.symm he)
  | cons c rest ih =>
    obtain ⟨k, b⟩ := c
    obtain ⟨hk, hr, hb⟩ := Memory.read_head hm
    cases n with
    | nil => exact absurd (hr.symm.trans (h ⟨k, hk⟩)) hb
    | cons d rest' =>
      obtain ⟨k', b'⟩ := d
      obtain ⟨hk', hr', hb'⟩ := Memory.read_head hn
      have hkk : k = k' := by
        rcases lt_trichotomy k k' with hlt | heq | hlt
        · have hall : ∀ x ∈ (k', b') :: rest', k < x.1 := fun x hx => by
            rcases List.mem_cons.mp hx with rfl | hx
            · exact hlt
            · exact lt_trans hlt (Memory.head_lt hn x hx)
          exact absurd (hr.symm.trans ((h _).trans (Memory.read_of_forall_gt (a := ⟨k, hk⟩) hall))) hb
        · exact heq
        · have hall : ∀ x ∈ (k, b) :: rest, k' < x.1 := fun x hx => by
            rcases List.mem_cons.mp hx with rfl | hx
            · exact hlt
            · exact lt_trans hlt (Memory.head_lt hm x hx)
          exact absurd (hr'.symm.trans ((h _).symm.trans (Memory.read_of_forall_gt (a := ⟨k', hk'⟩) hall))) hb'
      subst hkk
      have hbb : b = b' := hr.symm.trans ((h ⟨k, hk⟩).trans hr')
      subst hbb
      refine congrArg _ (ih (Memory.wf_tail hm) (Memory.wf_tail hn) fun a => ?_)
      by_cases ha : k = a.val
      · rw [Memory.read_of_forall_gt fun c hc => ha ▸ Memory.head_lt hm c hc,
          Memory.read_of_forall_gt fun c hc => ha ▸ Memory.head_lt hn c hc]
      · simpa [Memory.read_cons, ha] using h a

end Sys2Proof.Machine
end

