-- ==== Sys2Proof/Laws/Operands.lean ====
section
/-! SUPPORT. The fields of a command word put together from its fields. -/

namespace Sys2Proof.Machine

/-- The bits of a command word: `imm` below bit 32, `op` above. -/
theorem getLsbD_commandWord (op : BitVec 8) (imm : Word) (i : Nat) :
    (commandWord op imm).getLsbD i = if i < 32 then imm.getLsbD i else op.getLsbD (i - 32) := by
  have h := BitVec.getLsbD_append (x := op) (y := imm) (i := i)
  split <;> simp_all [commandWord]

@[simp] theorem opField_commandWord (op : BitVec 8) (imm : Word) : opField (commandWord op imm) = op := by
  apply BitVec.eq_of_getLsbD_eq
  intro i hi
  simp [opField, getLsbD_commandWord, hi]

@[simp] theorem immWord_commandWord (op : BitVec 8) (imm : Word) : immWord (commandWord op imm) = imm := by
  apply BitVec.eq_of_getLsbD_eq
  intro i hi
  simp [immWord, getLsbD_commandWord, hi]

@[simp] theorem immByte_commandWord (op : BitVec 8) (imm : Word) :
    immByte (commandWord op imm) = byteOf imm 0 := by
  apply BitVec.eq_of_getLsbD_eq
  intro i hi
  have : i < 32 := by omega
  simp [immByte, byteOf, getLsbD_commandWord, this]

@[simp] theorem byteOf_setWidth (b : Byte) : byteOf (b.setWidth 32) 0 = b := by
  apply BitVec.eq_of_getLsbD_eq
  intro i hi
  have : i < 32 := by omega
  simp [byteOf, hi, this]

/-- A command word is its two fields. -/
theorem commandWord_fields (w : CommandWord) : commandWord (opField w) (immWord w) = w := by
  apply BitVec.eq_of_getLsbD_eq
  intro i hi
  by_cases h : i < 32
  · simp [opField, immWord, getLsbD_commandWord, h]
  · have h8 : i - 32 < 8 := by omega
    have hs : 32 + (i - 32) = i := by omega
    simp [opField, immWord, getLsbD_commandWord, h, h8, hs]

end Sys2Proof.Machine
end

