-- ==== Sys2Proof/Laws/State.lean ====
section
/-! SUPPORT. The small lemmas of State: one per field per update, true by rfl, so that no proof unfolds a record update;
and that two blocks, or two states, with the same fields are the same. -/

namespace Sys2Proof.Machine

/-! setX -/

@[simp] theorem State.setX_x (s : State) (v : Word) : (s.setX v).x = v := rfl
@[simp] theorem State.setX_y (s : State) (v : Word) : (s.setX v).y = s.y := rfl
@[simp] theorem State.setX_w (s : State) (v : Word) : (s.setX v).w = s.w := rfl
@[simp] theorem State.setX_s0 (s : State) (v : Word) : (s.setX v).s0 = s.s0 := rfl
@[simp] theorem State.setX_s1 (s : State) (v : Word) : (s.setX v).s1 = s.s1 := rfl
@[simp] theorem State.setX_s2 (s : State) (v : Word) : (s.setX v).s2 = s.s2 := rfl
@[simp] theorem State.setX_crc (s : State) (v : Word) : (s.setX v).crc = s.crc := rfl
@[simp] theorem State.setX_frame (s : State) (v : Word) : (s.setX v).frame = s.frame := rfl
@[simp] theorem State.setX_fv (s : State) (v : Word) : (s.setX v).fv = s.fv := rfl
@[simp] theorem State.setX_inputs (s : State) (v : Word) : (s.setX v).inputs = s.inputs := rfl

/-! setY -/

@[simp] theorem State.setY_x (s : State) (v : Word) : (s.setY v).x = s.x := rfl
@[simp] theorem State.setY_y (s : State) (v : Word) : (s.setY v).y = v := rfl
@[simp] theorem State.setY_w (s : State) (v : Word) : (s.setY v).w = s.w := rfl
@[simp] theorem State.setY_s0 (s : State) (v : Word) : (s.setY v).s0 = s.s0 := rfl
@[simp] theorem State.setY_s1 (s : State) (v : Word) : (s.setY v).s1 = s.s1 := rfl
@[simp] theorem State.setY_s2 (s : State) (v : Word) : (s.setY v).s2 = s.s2 := rfl
@[simp] theorem State.setY_crc (s : State) (v : Word) : (s.setY v).crc = s.crc := rfl
@[simp] theorem State.setY_frame (s : State) (v : Word) : (s.setY v).frame = s.frame := rfl
@[simp] theorem State.setY_fv (s : State) (v : Word) : (s.setY v).fv = s.fv := rfl
@[simp] theorem State.setY_inputs (s : State) (v : Word) : (s.setY v).inputs = s.inputs := rfl

/-! setW -/

@[simp] theorem State.setW_x (s : State) (v : Word) : (s.setW v).x = s.x := rfl
@[simp] theorem State.setW_y (s : State) (v : Word) : (s.setW v).y = s.y := rfl
@[simp] theorem State.setW_w (s : State) (v : Word) : (s.setW v).w = v := rfl
@[simp] theorem State.setW_s0 (s : State) (v : Word) : (s.setW v).s0 = s.s0 := rfl
@[simp] theorem State.setW_s1 (s : State) (v : Word) : (s.setW v).s1 = s.s1 := rfl
@[simp] theorem State.setW_s2 (s : State) (v : Word) : (s.setW v).s2 = s.s2 := rfl
@[simp] theorem State.setW_crc (s : State) (v : Word) : (s.setW v).crc = s.crc := rfl
@[simp] theorem State.setW_frame (s : State) (v : Word) : (s.setW v).frame = s.frame := rfl
@[simp] theorem State.setW_fv (s : State) (v : Word) : (s.setW v).fv = s.fv := rfl
@[simp] theorem State.setW_inputs (s : State) (v : Word) : (s.setW v).inputs = s.inputs := rfl

/-! setS0 -/

@[simp] theorem State.setS0_x (s : State) (v : Word) : (s.setS0 v).x = s.x := rfl
@[simp] theorem State.setS0_y (s : State) (v : Word) : (s.setS0 v).y = s.y := rfl
@[simp] theorem State.setS0_w (s : State) (v : Word) : (s.setS0 v).w = s.w := rfl
@[simp] theorem State.setS0_s0 (s : State) (v : Word) : (s.setS0 v).s0 = v := rfl
@[simp] theorem State.setS0_s1 (s : State) (v : Word) : (s.setS0 v).s1 = s.s1 := rfl
@[simp] theorem State.setS0_s2 (s : State) (v : Word) : (s.setS0 v).s2 = s.s2 := rfl
@[simp] theorem State.setS0_crc (s : State) (v : Word) : (s.setS0 v).crc = s.crc := rfl
@[simp] theorem State.setS0_frame (s : State) (v : Word) : (s.setS0 v).frame = s.frame := rfl
@[simp] theorem State.setS0_fv (s : State) (v : Word) : (s.setS0 v).fv = s.fv := rfl
@[simp] theorem State.setS0_inputs (s : State) (v : Word) : (s.setS0 v).inputs = s.inputs := rfl

/-! setS1 -/

@[simp] theorem State.setS1_x (s : State) (v : Word) : (s.setS1 v).x = s.x := rfl
@[simp] theorem State.setS1_y (s : State) (v : Word) : (s.setS1 v).y = s.y := rfl
@[simp] theorem State.setS1_w (s : State) (v : Word) : (s.setS1 v).w = s.w := rfl
@[simp] theorem State.setS1_s0 (s : State) (v : Word) : (s.setS1 v).s0 = s.s0 := rfl
@[simp] theorem State.setS1_s1 (s : State) (v : Word) : (s.setS1 v).s1 = v := rfl
@[simp] theorem State.setS1_s2 (s : State) (v : Word) : (s.setS1 v).s2 = s.s2 := rfl
@[simp] theorem State.setS1_crc (s : State) (v : Word) : (s.setS1 v).crc = s.crc := rfl
@[simp] theorem State.setS1_frame (s : State) (v : Word) : (s.setS1 v).frame = s.frame := rfl
@[simp] theorem State.setS1_fv (s : State) (v : Word) : (s.setS1 v).fv = s.fv := rfl
@[simp] theorem State.setS1_inputs (s : State) (v : Word) : (s.setS1 v).inputs = s.inputs := rfl

/-! setS2 -/

@[simp] theorem State.setS2_x (s : State) (v : Word) : (s.setS2 v).x = s.x := rfl
@[simp] theorem State.setS2_y (s : State) (v : Word) : (s.setS2 v).y = s.y := rfl
@[simp] theorem State.setS2_w (s : State) (v : Word) : (s.setS2 v).w = s.w := rfl
@[simp] theorem State.setS2_s0 (s : State) (v : Word) : (s.setS2 v).s0 = s.s0 := rfl
@[simp] theorem State.setS2_s1 (s : State) (v : Word) : (s.setS2 v).s1 = s.s1 := rfl
@[simp] theorem State.setS2_s2 (s : State) (v : Word) : (s.setS2 v).s2 = v := rfl
@[simp] theorem State.setS2_crc (s : State) (v : Word) : (s.setS2 v).crc = s.crc := rfl
@[simp] theorem State.setS2_frame (s : State) (v : Word) : (s.setS2 v).frame = s.frame := rfl
@[simp] theorem State.setS2_fv (s : State) (v : Word) : (s.setS2 v).fv = s.fv := rfl
@[simp] theorem State.setS2_inputs (s : State) (v : Word) : (s.setS2 v).inputs = s.inputs := rfl

/-! setCrc -/

@[simp] theorem State.setCrc_x (s : State) (v : Word) : (s.setCrc v).x = s.x := rfl
@[simp] theorem State.setCrc_y (s : State) (v : Word) : (s.setCrc v).y = s.y := rfl
@[simp] theorem State.setCrc_w (s : State) (v : Word) : (s.setCrc v).w = s.w := rfl
@[simp] theorem State.setCrc_s0 (s : State) (v : Word) : (s.setCrc v).s0 = s.s0 := rfl
@[simp] theorem State.setCrc_s1 (s : State) (v : Word) : (s.setCrc v).s1 = s.s1 := rfl
@[simp] theorem State.setCrc_s2 (s : State) (v : Word) : (s.setCrc v).s2 = s.s2 := rfl
@[simp] theorem State.setCrc_crc (s : State) (v : Word) : (s.setCrc v).crc = v := rfl
@[simp] theorem State.setCrc_frame (s : State) (v : Word) : (s.setCrc v).frame = s.frame := rfl
@[simp] theorem State.setCrc_fv (s : State) (v : Word) : (s.setCrc v).fv = s.fv := rfl
@[simp] theorem State.setCrc_inputs (s : State) (v : Word) : (s.setCrc v).inputs = s.inputs := rfl

/-! setFrame -/

@[simp] theorem State.setFrame_x (s : State) (v : Memory) : (s.setFrame v).x = s.x := rfl
@[simp] theorem State.setFrame_y (s : State) (v : Memory) : (s.setFrame v).y = s.y := rfl
@[simp] theorem State.setFrame_w (s : State) (v : Memory) : (s.setFrame v).w = s.w := rfl
@[simp] theorem State.setFrame_s0 (s : State) (v : Memory) : (s.setFrame v).s0 = s.s0 := rfl
@[simp] theorem State.setFrame_s1 (s : State) (v : Memory) : (s.setFrame v).s1 = s.s1 := rfl
@[simp] theorem State.setFrame_s2 (s : State) (v : Memory) : (s.setFrame v).s2 = s.s2 := rfl
@[simp] theorem State.setFrame_crc (s : State) (v : Memory) : (s.setFrame v).crc = s.crc := rfl
@[simp] theorem State.setFrame_frame (s : State) (v : Memory) : (s.setFrame v).frame = v := rfl
@[simp] theorem State.setFrame_fv (s : State) (v : Memory) : (s.setFrame v).fv = s.fv := rfl
@[simp] theorem State.setFrame_inputs (s : State) (v : Memory) : (s.setFrame v).inputs = s.inputs := rfl

/-! setFv -/

@[simp] theorem State.setFv_x (s : State) (v : Bool) : (s.setFv v).x = s.x := rfl
@[simp] theorem State.setFv_y (s : State) (v : Bool) : (s.setFv v).y = s.y := rfl
@[simp] theorem State.setFv_w (s : State) (v : Bool) : (s.setFv v).w = s.w := rfl
@[simp] theorem State.setFv_s0 (s : State) (v : Bool) : (s.setFv v).s0 = s.s0 := rfl
@[simp] theorem State.setFv_s1 (s : State) (v : Bool) : (s.setFv v).s1 = s.s1 := rfl
@[simp] theorem State.setFv_s2 (s : State) (v : Bool) : (s.setFv v).s2 = s.s2 := rfl
@[simp] theorem State.setFv_crc (s : State) (v : Bool) : (s.setFv v).crc = s.crc := rfl
@[simp] theorem State.setFv_frame (s : State) (v : Bool) : (s.setFv v).frame = s.frame := rfl
@[simp] theorem State.setFv_fv (s : State) (v : Bool) : (s.setFv v).fv = v := rfl
@[simp] theorem State.setFv_inputs (s : State) (v : Bool) : (s.setFv v).inputs = s.inputs := rfl

/-! setInputs -/

@[simp] theorem State.setInputs_x (s : State) (v : List PortSample) : (s.setInputs v).x = s.x := rfl
@[simp] theorem State.setInputs_y (s : State) (v : List PortSample) : (s.setInputs v).y = s.y := rfl
@[simp] theorem State.setInputs_w (s : State) (v : List PortSample) : (s.setInputs v).w = s.w := rfl
@[simp] theorem State.setInputs_s0 (s : State) (v : List PortSample) : (s.setInputs v).s0 = s.s0 := rfl
@[simp] theorem State.setInputs_s1 (s : State) (v : List PortSample) : (s.setInputs v).s1 = s.s1 := rfl
@[simp] theorem State.setInputs_s2 (s : State) (v : List PortSample) : (s.setInputs v).s2 = s.s2 := rfl
@[simp] theorem State.setInputs_crc (s : State) (v : List PortSample) : (s.setInputs v).crc = s.crc := rfl
@[simp] theorem State.setInputs_frame (s : State) (v : List PortSample) : (s.setInputs v).frame = s.frame := rfl
@[simp] theorem State.setInputs_fv (s : State) (v : List PortSample) : (s.setInputs v).fv = s.fv := rfl
@[simp] theorem State.setInputs_inputs (s : State) (v : List PortSample) : (s.setInputs v).inputs = v := rfl
@[simp] theorem State.setInputs_toBlock (s : State) (v : List PortSample) : (s.setInputs v).toBlock = s.toBlock := rfl
@[simp] theorem State.setInputs_setInputs (s : State) (v v' : List PortSample) :
    (s.setInputs v).setInputs v' = s.setInputs v' := rfl
@[simp] theorem State.reset_toBlock : State.reset.toBlock = Block.reset := rfl

/-! setSpeeds and raiseFv -/

@[simp] theorem State.setSpeeds_x (s : State) (v : Speeds) : (s.setSpeeds v).x = s.x := rfl
@[simp] theorem State.setSpeeds_y (s : State) (v : Speeds) : (s.setSpeeds v).y = s.y := rfl
@[simp] theorem State.setSpeeds_w (s : State) (v : Speeds) : (s.setSpeeds v).w = s.w := rfl
@[simp] theorem State.setSpeeds_s0 (s : State) (v : Speeds) : (s.setSpeeds v).s0 = v.s0 := rfl
@[simp] theorem State.setSpeeds_s1 (s : State) (v : Speeds) : (s.setSpeeds v).s1 = v.s1 := rfl
@[simp] theorem State.setSpeeds_s2 (s : State) (v : Speeds) : (s.setSpeeds v).s2 = v.s2 := rfl
@[simp] theorem State.setSpeeds_crc (s : State) (v : Speeds) : (s.setSpeeds v).crc = s.crc := rfl
@[simp] theorem State.setSpeeds_frame (s : State) (v : Speeds) : (s.setSpeeds v).frame = s.frame := rfl
@[simp] theorem State.setSpeeds_fv (s : State) (v : Speeds) : (s.setSpeeds v).fv = s.fv := rfl
@[simp] theorem State.setSpeeds_inputs (s : State) (v : Speeds) : (s.setSpeeds v).inputs = s.inputs := rfl
@[simp] theorem State.raiseFv_x (s : State) : s.raiseFv.x = s.x := rfl
@[simp] theorem State.raiseFv_y (s : State) : s.raiseFv.y = s.y := rfl
@[simp] theorem State.raiseFv_w (s : State) : s.raiseFv.w = s.w := rfl
@[simp] theorem State.raiseFv_s0 (s : State) : s.raiseFv.s0 = s.s0 := rfl
@[simp] theorem State.raiseFv_s1 (s : State) : s.raiseFv.s1 = s.s1 := rfl
@[simp] theorem State.raiseFv_s2 (s : State) : s.raiseFv.s2 = s.s2 := rfl
@[simp] theorem State.raiseFv_crc (s : State) : s.raiseFv.crc = s.crc := rfl
@[simp] theorem State.raiseFv_frame (s : State) : s.raiseFv.frame = s.frame := rfl
@[simp] theorem State.raiseFv_fv (s : State) : s.raiseFv.fv = true := rfl
@[simp] theorem State.raiseFv_inputs (s : State) : s.raiseFv.inputs = s.inputs := rfl

/-! The reset values -/

@[simp] theorem Block.reset_x : Block.reset.x = 0x00000000#32 := rfl
@[simp] theorem Block.reset_y : Block.reset.y = 0x00000000#32 := rfl
@[simp] theorem Block.reset_w : Block.reset.w = 0x00000000#32 := rfl
@[simp] theorem Block.reset_s0 : Block.reset.s0 = 0x00000000#32 := rfl
@[simp] theorem Block.reset_s1 : Block.reset.s1 = 0x00000000#32 := rfl
@[simp] theorem Block.reset_s2 : Block.reset.s2 = 0x00000000#32 := rfl
@[simp] theorem Block.reset_crc : Block.reset.crc = 0xFFFFFFFF#32 := rfl
@[simp] theorem Block.reset_frame : Block.reset.frame = [] := rfl
@[simp] theorem Block.reset_fv : Block.reset.fv = false := rfl

/-- Two blocks with the same nine fields are the same. -/
theorem Block.ext_fields {b c : Block} (hx : b.x = c.x) (hy : b.y = c.y) (hw : b.w = c.w) (h0 : b.s0 = c.s0)
    (h1 : b.s1 = c.s1) (h2 : b.s2 = c.s2) (hc : b.crc = c.crc) (hf : b.frame = c.frame) (hv : b.fv = c.fv) : b = c := by
  cases b
  cases c
  simp_all

/-- Two states with the same block and the same samples to come are the same. -/
theorem State.ext_block {s t : State} (hb : s.toBlock = t.toBlock) (hi : s.inputs = t.inputs) : s = t := by
  cases s
  cases t
  simp_all

/-- Two states with the same ten fields are the same. -/
theorem State.ext_fields {s t : State} (hx : s.x = t.x) (hy : s.y = t.y) (hw : s.w = t.w) (h0 : s.s0 = t.s0)
    (h1 : s.s1 = t.s1) (h2 : s.s2 = t.s2) (hc : s.crc = t.crc) (hf : s.frame = t.frame) (hv : s.fv = t.fv)
    (hi : s.inputs = t.inputs) : s = t :=
  State.ext_block (Block.ext_fields hx hy hw h0 h1 h2 hc hf hv) hi

end Sys2Proof.Machine
end

