-- ==== Sys2Proof/Laws/Ops.lean ====
section
/-! SUPPORT. What each shared operation does, said once: the kinematics, the packer, the cleared motion, and the
taking of a sample of the input ports. -/

namespace Sys2Proof.Machine

/-! The kinematics: it writes the three speeds and nothing else -/

@[simp] theorem kinOp_x (c : KinConfig) (s : State) : (kinOp c s).x = s.x := rfl
@[simp] theorem kinOp_y (c : KinConfig) (s : State) : (kinOp c s).y = s.y := rfl
@[simp] theorem kinOp_w (c : KinConfig) (s : State) : (kinOp c s).w = s.w := rfl
@[simp] theorem kinOp_s0 (c : KinConfig) (s : State) : (kinOp c s).s0 = (c.kin32 s.x s.y s.w).s0 := rfl
@[simp] theorem kinOp_s1 (c : KinConfig) (s : State) : (kinOp c s).s1 = (c.kin32 s.x s.y s.w).s1 := rfl
@[simp] theorem kinOp_s2 (c : KinConfig) (s : State) : (kinOp c s).s2 = (c.kin32 s.x s.y s.w).s2 := rfl
@[simp] theorem kinOp_crc (c : KinConfig) (s : State) : (kinOp c s).crc = s.crc := rfl
@[simp] theorem kinOp_frame (c : KinConfig) (s : State) : (kinOp c s).frame = s.frame := rfl
@[simp] theorem kinOp_fv (c : KinConfig) (s : State) : (kinOp c s).fv = s.fv := rfl
@[simp] theorem kinOp_inputs (c : KinConfig) (s : State) : (kinOp c s).inputs = s.inputs := rfl
@[simp] theorem kinOp_speeds (c : KinConfig) (s : State) : (kinOp c s).speeds = c.kin32 s.x s.y s.w := rfl

/-- The reference configuration's `kin32` is the datapath over the reference ROM. -/
@[simp] theorem referenceKin_kin32 (x y w : Word) :
    referenceKin.kin32 x y w = kinDatapath referenceRom x y w := rfl

/-! The packer: it writes the frame, `CRC` and `FV` and nothing else -/

@[simp] theorem packOp_x (s : State) : (packOp s).x = s.x := rfl
@[simp] theorem packOp_y (s : State) : (packOp s).y = s.y := rfl
@[simp] theorem packOp_w (s : State) : (packOp s).w = s.w := rfl
@[simp] theorem packOp_s0 (s : State) : (packOp s).s0 = s.s0 := rfl
@[simp] theorem packOp_s1 (s : State) : (packOp s).s1 = s.s1 := rfl
@[simp] theorem packOp_s2 (s : State) : (packOp s).s2 = s.s2 := rfl
@[simp] theorem packOp_fv (s : State) : (packOp s).fv = true := rfl
@[simp] theorem packOp_inputs (s : State) : (packOp s).inputs = s.inputs := rfl
@[simp] theorem packOp_crc (s : State) : (packOp s).crc = payloadCrc (packPayload s.frame s.speeds) := rfl
theorem packOp_frame (s : State) : (packOp s).frame =
    (packPayload s.frame s.speeds).storeWord 3 (payloadCrc (packPayload s.frame s.speeds)) := rfl

/-- The word of the payload at each of the first three places. -/
@[simp] theorem loadWord_packPayload_0 (m : Memory) (v : Speeds) : (packPayload m v).loadWord 0 = v.s0 := by
  simp [packPayload]
@[simp] theorem loadWord_packPayload_1 (m : Memory) (v : Speeds) : (packPayload m v).loadWord 1 = v.s1 := by
  simp [packPayload]
@[simp] theorem loadWord_packPayload_2 (m : Memory) (v : Speeds) : (packPayload m v).loadWord 2 = v.s2 := by
  simp [packPayload]

/-- The bytes of the payload, word by word. -/
@[simp] theorem read_packPayload_0 (m : Memory) (v : Speeds) (j : Fin 4) :
    (packPayload m v).read (frameOffset 0 j) = byteOf v.s0 j := by
  simp [packPayload]
@[simp] theorem read_packPayload_1 (m : Memory) (v : Speeds) (j : Fin 4) :
    (packPayload m v).read (frameOffset 1 j) = byteOf v.s1 j := by
  simp [packPayload]
@[simp] theorem read_packPayload_2 (m : Memory) (v : Speeds) (j : Fin 4) :
    (packPayload m v).read (frameOffset 2 j) = byteOf v.s2 j := by
  simp [packPayload]

/-- The CRC input view does not look at the CRC word. -/
@[simp] theorem crcView_storeWord_three (m : Memory) (v : Word) : (m.storeWord 3 v).crcView = m.crcView := by
  simp [Memory.crcView]

/-- Packing keeps the canonical form of the frame buffer. -/
theorem packOp_frame_wf {s : State} (h : s.frame.wf) : (packOp s).frame.wf :=
  Memory.wf_storeWord (Memory.wf_storeWord (Memory.wf_storeWord (Memory.wf_storeWord h _ _) _ _) _ _) _ _

/-! The cleared motion -/

@[simp] theorem clearMotion_x (s : State) : (clearMotion s).x = 0x00000000#32 := rfl
@[simp] theorem clearMotion_y (s : State) : (clearMotion s).y = 0x00000000#32 := rfl
@[simp] theorem clearMotion_w (s : State) : (clearMotion s).w = 0x00000000#32 := rfl
@[simp] theorem clearMotion_s0 (s : State) : (clearMotion s).s0 = 0x00000000#32 := rfl
@[simp] theorem clearMotion_s1 (s : State) : (clearMotion s).s1 = 0x00000000#32 := rfl
@[simp] theorem clearMotion_s2 (s : State) : (clearMotion s).s2 = 0x00000000#32 := rfl
@[simp] theorem clearMotion_crc (s : State) : (clearMotion s).crc = s.crc := rfl
@[simp] theorem clearMotion_frame (s : State) : (clearMotion s).frame = s.frame := rfl
@[simp] theorem clearMotion_fv (s : State) : (clearMotion s).fv = s.fv := rfl
@[simp] theorem clearMotion_inputs (s : State) : (clearMotion s).inputs = s.inputs := rfl

/-! No operation looks at the samples still to come -/

@[simp] theorem kinOp_setInputs (c : KinConfig) (s : State) (l : List PortSample) :
    kinOp c (s.setInputs l) = (kinOp c s).setInputs l := rfl
@[simp] theorem packOp_setInputs (s : State) (l : List PortSample) :
    packOp (s.setInputs l) = (packOp s).setInputs l := by
  simp only [packOp, State.setInputs, State.raiseFv, State.setFv, State.setCrc, State.setFrame, State.speeds]
@[simp] theorem clearMotion_setInputs (s : State) (l : List PortSample) :
    clearMotion (s.setInputs l) = (clearMotion s).setInputs l := rfl

/-! The ports -/

/-- A reset makes the block the reset block and leaves the samples still to come. -/
@[simp] theorem applyReset_toBlock (s : State) : (applyReset s).toBlock = Block.reset := rfl
@[simp] theorem applyReset_inputs (s : State) : (applyReset s).inputs = s.inputs := rfl

theorem nextEvent_nil {s : State} (h : s.inputs = []) : nextEvent s = .hold := by
  simp [nextEvent, h]

theorem nextEvent_cons {s : State} {p : PortSample} {rest : List PortSample} (h : s.inputs = p :: rest) :
    nextEvent s = portEvent p := by
  simp [nextEvent, h]

theorem consume_cons {s : State} {p : PortSample} {rest : List PortSample} (h : s.inputs = p :: rest) :
    consume s = s.setInputs rest := by
  simp [consume, h]

/-- Taking a sample when there is none changes nothing. -/
theorem consume_nil {s : State} (h : s.inputs = []) : consume s = s := by
  cases s
  simp_all [consume, State.setInputs]

theorem portEvent_reset {p : PortSample} (h : p.rst = true) : portEvent p = .reset := by
  simp [portEvent, h]

theorem portEvent_command {p : PortSample} (hr : p.rst = false) (hv : p.cmdValid = true) :
    portEvent p = .command p.cmd := by
  simp [portEvent, accepted, cmdReady, hr, hv]

theorem portEvent_hold {p : PortSample} (hr : p.rst = false) (hv : p.cmdValid = false) : portEvent p = .hold := by
  simp [portEvent, accepted, hr, hv]

/-- An accepted word that decodes runs its instruction. -/
theorem acceptCommand_ok {w : CommandWord} {i : Instr} (h : decode w = .ok i) (s : State) :
    acceptCommand w s = exec i s := by
  simp [acceptCommand, h]

/-- An accepted word with a reserved opcode is the reserved command. -/
theorem acceptCommand_reserved {w : CommandWord} {op : BitVec 8} (h : decode w = .error (.reservedOpcode op))
    (s : State) : acceptCommand w s = execReserved op s := by
  simp [acceptCommand, h]

/-- A program's first command, when it answers a next state. -/
theorem runProgram_cons {w : CommandWord} {s t : State} (h : acceptCommand w s = .next t) (ws : List CommandWord) :
    runProgram (w :: ws) s = runProgram ws t := by
  simp [runProgram, h]

@[simp] theorem runProgram_nil (s : State) : runProgram [] s = .next s := rfl

/-! The output port of the frame buffer -/

/-- `frame_o` as the four words of the frame (`20_memory.md` R55). -/
theorem frameOut_eq_words (m : Memory) :
    frameOut m = m.loadWord 3 ++ m.loadWord 2 ++ m.loadWord 1 ++ m.loadWord 0 := by
  simp only [Memory.loadWord, append_wordOf]
  rfl

/-- The contents that `frame_o` shows are in canonical form. -/
theorem frameOfOut_wf (v : BitVec 128) : (frameOfOut v).wf :=
  Memory.wf_storeWord (Memory.wf_storeWord (Memory.wf_storeWord (Memory.wf_storeWord Memory.wf_nil _ _) _ _) _ _) _ _

end Sys2Proof.Machine
end

