-- ==== Sys2Proof/Laws/PerInstr.lean ====
section
/-! SUPPORT. The family EncodeFields: the word of a well-formed command has the command's opcode in bits 39:32 and the
assembler's immediate in bits 31:0 (`30_encoding.md` R70, R73, R78). One lemma per constructor of Instr. -/

namespace Sys2Proof.Laws.EncodeFields

open Sys2Proof.Machine

def Statement (i : Instr) : Prop :=
  opField (encode i) = i.opcode ∧ immWord (encode i) = i.immediate

theorem nop : Statement .nop := ⟨opField_commandWord _ _, immWord_commandWord _ _⟩
theorem stop : Statement .stop := ⟨opField_commandWord _ _, immWord_commandWord _ _⟩
theorem crcInit : Statement .crcInit := ⟨opField_commandWord _ _, immWord_commandWord _ _⟩
theorem crcByte (byte : Byte) : Statement (.crcByte byte) := ⟨opField_commandWord _ _, immWord_commandWord _ _⟩
theorem crcWord (word : Word) : Statement (.crcWord word) := ⟨opField_commandWord _ _, immWord_commandWord _ _⟩
theorem ldX (imm : Word) : Statement (.ldX imm) := ⟨opField_commandWord _ _, immWord_commandWord _ _⟩
theorem ldY (imm : Word) : Statement (.ldY imm) := ⟨opField_commandWord _ _, immWord_commandWord _ _⟩
theorem ldW (imm : Word) : Statement (.ldW imm) := ⟨opField_commandWord _ _, immWord_commandWord _ _⟩
theorem ldS0 (imm : Word) : Statement (.ldS0 imm) := ⟨opField_commandWord _ _, immWord_commandWord _ _⟩
theorem ldS1 (imm : Word) : Statement (.ldS1 imm) := ⟨opField_commandWord _ _, immWord_commandWord _ _⟩
theorem ldS2 (imm : Word) : Statement (.ldS2 imm) := ⟨opField_commandWord _ _, immWord_commandWord _ _⟩
theorem kin : Statement .kin := ⟨opField_commandWord _ _, immWord_commandWord _ _⟩
theorem pack : Statement .pack := ⟨opField_commandWord _ _, immWord_commandWord _ _⟩
theorem tick : Statement .tick := ⟨opField_commandWord _ _, immWord_commandWord _ _⟩

end Sys2Proof.Laws.EncodeFields
end

