-- ==== Sys2Proof/Tests/Slice0.lean ====
section
/-! SUPPORT. Our own tests. The expected values are those of `95_test_vectors.md` (the vector is named in each test) and
of the rules' own examples; the witnesses at the end show that the hypotheses of each statement can be met. -/

namespace Sys2Proof.Tests

open Sys2Proof.Machine

/-- The state a meaning answers, if it answers one. -/
def stateOf : Result → Option State
  | .next s => some s
  | .fault _ => none
  | .refused _ => none

/-- The state after a word accepted in the state `s`, read through `f`. -/
def after {α : Type} (f : State → α) (w : CommandWord) (s : State) : Option α :=
  (stateOf (acceptCommand w s)).map f

/-- Reset with an intent. -/
def withIntent (x y w : Word) : State := { State.reset with x := x, y := y, w := w }

/-- Reset with wheel speeds. -/
def withSpeeds (a b c : Word) : State := { State.reset with s0 := a, s1 := b, s2 := c }

/-- Reset with samples on the input ports. -/
def withSamples (l : List PortSample) : State := { State.reset with inputs := l }

/-- A sample with `rst` asserted beside a `TICK` word. -/
def resetSample : PortSample := { rst := true, cmdValid := true, cmd := 0x3200000000#40 }

/-- A sample with nothing presented. -/
def idleSample : PortSample := { rst := false, cmdValid := false, cmd := 0x0000000000#40 }

/-! What the checks of well-formedness refuse -/

theorem test_wf_refuses_zero_radius :
    Geometry.wf { referenceGeometry with wheelRadius := 0 } = false := by decide +kernel
theorem test_wf_refuses_negative_radius :
    Geometry.wf { referenceGeometry with wheelRadius := -1 } = false := by decide +kernel
theorem test_wf_accepts_reference_geometry : Geometry.wf referenceGeometry = true := by decide +kernel
theorem test_wf_refuses_two_speeds : (Pseudo.speeds [0#32, 0#32]).wf = false := by decide
theorem test_wf_refuses_four_speeds : (Pseudo.speeds [0#32, 0#32, 0#32, 0#32]).wf = false := by decide
theorem test_wf_accepts_three_speeds : (Pseudo.speeds [0#32, 0#32, 0#32]).wf = true := by decide

/-! Decoding: words written out from `30_encoding.md` R70 and R73, every constructor -/

theorem test_decode_nop : decode 0x00DEADBEEF#40 = .ok .nop := by decide
theorem test_decode_stop : decode 0x01FFFFFFFF#40 = .ok .stop := by decide
theorem test_decode_crc_init : decode 0x1000000001#40 = .ok .crcInit := by decide
theorem test_decode_crc_byte : decode 0x11ABCDEF12#40 = .ok (.crcByte 0x12#8) := by decide
theorem test_decode_crc_word : decode 0x12ABCDEF12#40 = .ok (.crcWord 0xABCDEF12#32) := by decide
theorem test_decode_ld_x : decode 0x2080000000#40 = .ok (.ldX 0x80000000#32) := by decide
theorem test_decode_ld_y : decode 0x21BECCCCCD#40 = .ok (.ldY 0xBECCCCCD#32) := by decide
theorem test_decode_ld_w : decode 0x223F000000#40 = .ok (.ldW 0x3F000000#32) := by decide
theorem test_decode_ld_s0 : decode 0x283FC00000#40 = .ok (.ldS0 0x3FC00000#32) := by decide
theorem test_decode_ld_s1 : decode 0x29C0100000#40 = .ok (.ldS1 0xC0100000#32) := by decide
theorem test_decode_ld_s2 : decode 0x2A00000001#40 = .ok (.ldS2 0x00000001#32) := by decide
theorem test_decode_kin : decode 0x3012345678#40 = .ok .kin := by decide
theorem test_decode_pack : decode 0x3100000000#40 = .ok .pack := by decide
theorem test_decode_tick : decode 0x3200000000#40 = .ok .tick := by decide
theorem test_decode_reserved : decode 0x2B00000001#40 = .error (.reservedOpcode 0x2B#8) := by decide

/-- The same word bit by bit: `op` = 0010 1000 in bits 39:32, then the 32 bits of 1.5. -/
theorem test_decode_ld_s0_bits :
    decode 0b0010100000111111110000000000000000000000#40 = .ok (.ldS0 0x3FC00000#32) := by decide

theorem test_encode_crc_byte : encode (.crcByte 0x41#8) = 0x1100000041#40 := by decide
theorem test_encode_ld_x : encode (.ldX 0x3DCCCCCD#32) = 0x203DCCCCCD#40 := by decide
theorem test_table_word : decodeTableWord 40 0x2100000007 = some (.ldY 0x00000007#32) := by decide
theorem test_table_word_reserved : decodeTableWord 40 0x3300000000 = none := by decide
theorem test_opcode_rows_differ : opcodeTable.Pairwise (fun a b => a.matchWord ≠ b.matchWord) := by decide

/-! NOP, loads, reserved opcodes (section 2.5: L2, L3 to L8, L9) -/

theorem test_nop : after id 0x00DEADBEEF#40 State.reset = some State.reset := by decide
theorem test_ld_x : after (·.x) 0x203DCCCCCD#40 State.reset = some 0x3DCCCCCD#32 := by decide
theorem test_ld_y : after (·.y) 0x21BECCCCCD#40 State.reset = some 0xBECCCCCD#32 := by decide
theorem test_ld_w : after (·.w) 0x223F000000#40 State.reset = some 0x3F000000#32 := by decide
theorem test_ld_s0 : after (·.s0) 0x283FC00000#40 State.reset = some 0x3FC00000#32 := by decide
theorem test_ld_s1 : after (·.s1) 0x29C0100000#40 State.reset = some 0xC0100000#32 := by decide
theorem test_ld_s2_keeps_nan : after (·.s2) 0x2A7FA00001#40 State.reset = some 0x7FA00001#32 := by decide
theorem test_reserved : after id 0xFF12345678#40 State.reset = some State.reset := by decide

/-! The CRC unit (sections 2.1, 2.2) -/

theorem test_crc_init_I1 :
    after (·.crc) 0x1000000000#40 { State.reset with crc := 0x0376E6E7#32 } = some 0xFFFFFFFF#32 := by decide
theorem test_crc_byte_I3 : after (·.crc) 0x1100000031#40 State.reset = some 0x9EFBCF93#32 := by decide +kernel
theorem test_crc_byte_I4 : after (·.crc) 0x11FFFFFF41#40 State.reset = some 0x7E4FD274#32 := by decide +kernel
theorem test_crc_word_I6 : after (·.crc) 0x1231323334#40 State.reset = some 0xA695C4AA#32 := by decide +kernel
theorem test_crc_word_I9 :
    after (·.crc) 0x121D480245#40 { State.reset with crc := 0x1D480245#32 } = some 0x00000000#32 := by
  decide +kernel
theorem test_upd8_V17 : upd8 0x12345678#32 0x9A#8 = 0x7B527556#32 := by decide +kernel
theorem test_crc_V11 : crc32m [0xDE#8, 0xAD#8, 0xBE#8, 0xEF#8] = 0x81DA1A18#32 := by decide +kernel
/-- The other CRC-32 of `41_crc.md` R133, by its parameters: the fields mean what R121 says. -/
theorem test_crc_zlib_parameters :
    crcOf { poly := 0x04C11DB7#32, init := 0xFFFFFFFF#32, refIn := true, refOut := true, xorOut := 0xFFFFFFFF#32 }
      [0x31#8, 0x32#8, 0x33#8, 0x34#8, 0x35#8, 0x36#8, 0x37#8, 0x38#8, 0x39#8] = 0xCBF43926#32 := by decide +kernel
theorem test_crc_forms_V17 : upd8XorIn 0x12345678#32 0x9A#8 = 0x7B527556#32 ∧
    upd8Table crcTableEntry 0x12345678#32 0x9A#8 = 0x7B527556#32 := by decide +kernel

/-! PACK (section 2.3: P6, the clearest byte-order check, and P4, which keeps NaN payloads) -/

theorem test_pack_P6 :
    after (fun t => (t.crc, frameBytes t.frame, t.fv)) 0x3100000000#40
      (withSpeeds 0x01020304#32 0x05060708#32 0x090A0B0C#32) =
    some (0xCA7B9597#32, [0x04#8, 0x03#8, 0x02#8, 0x01#8, 0x08#8, 0x07#8, 0x06#8, 0x05#8, 0x0C#8, 0x0B#8, 0x0A#8,
      0x09#8, 0x97#8, 0x95#8, 0x7B#8, 0xCA#8], true) := by decide +kernel
theorem test_pack_P4 :
    after (fun t => (t.crc, frameBytes t.frame)) 0x3100000000#40
      (withSpeeds 0x7FA00001#32 0xFF800000#32 0x00000001#32) =
    some (0xA76408CA#32, [0x01#8, 0x00#8, 0xA0#8, 0x7F#8, 0x00#8, 0x00#8, 0x80#8, 0xFF#8, 0x01#8, 0x00#8, 0x00#8,
      0x00#8, 0xCA#8, 0x08#8, 0x64#8, 0xA7#8]) := by decide +kernel

/-! KIN (section 2.4) and its arithmetic -/

theorem test_kin_K7 :
    after State.speeds 0x3000000000#40 (withIntent 0x3E99999A#32 0xBECCCCCD#32 0x3F000000#32) =
    some { s0 := 0xC0890C14#32, s1 := 0x400129D0#32, s2 := 0x403D7543#32 } := by decide +kernel
theorem test_kin_K19 :
    after State.speeds 0x3012345678#40 (withIntent 0x00000001#32 0x00000000#32 0x00000000#32) =
    some { s0 := 0x80000005#32, s1 := 0x80000005#32, s2 := 0x00000009#32 } := by decide +kernel
/-- The intermediate products of K7. -/
theorem test_fmul_K7 : fmul 0xC091835A#32 0x3E99999A#32 = 0xBFAE9DA0#32 ∧
    fmul 0x40FC093C#32 0xBECCCCCD#32 = 0xC049A0FD#32 ∧ fmul 0x00000000#32 0xBECCCCCD#32 = 0x80000000#32 := by
  decide +kernel
theorem test_fadd_K7 : fadd 0xBFAE9DA0#32 0xC049A0FD#32 = 0xC09077E6#32 ∧
    fadd 0x402E9DA0#32 0x80000000#32 = 0x402E9DA0#32 := by decide +kernel
/-- K12: the largest finite x overflows to infinities, unclamped. -/
theorem test_kin_K12_overflow :
    kinDatapath referenceRom 0x7F7FFFFF#32 0x00000000#32 0x00000000#32 =
    { s0 := 0xFF800000#32, s1 := 0xFF800000#32, s2 := 0x7F800000#32 } := by decide +kernel
/-- K9 and K11: signs of zero. -/
theorem test_kin_K9_K11_zeros :
    kinDatapath referenceRom 0x80000000#32 0x80000000#32 0x80000000#32 =
      { s0 := 0x00000000#32, s1 := 0x00000000#32, s2 := 0x80000000#32 } ∧
    kinDatapath referenceRom 0x00000000#32 0x00000000#32 0x80000000#32 =
      { s0 := 0x00000000#32, s1 := 0x80000000#32, s2 := 0x00000000#32 } := by decide +kernel
/-- K14, K15 and K18: infinities and NaNs. -/
theorem test_kin_K14_K15_K18 :
    kinDatapath referenceRom 0x00000000#32 0x7F800000#32 0x00000000#32 =
      { s0 := 0x7F800000#32, s1 := 0xFF800000#32, s2 := 0x7FC00000#32 } ∧
    kinDatapath referenceRom 0x7FC00001#32 0x00000000#32 0x00000000#32 =
      { s0 := 0x7FC00000#32, s1 := 0x7FC00000#32, s2 := 0x7FC00000#32 } ∧
    kinDatapath referenceRom 0x7F800000#32 0x00000000#32 0xFF800000#32 =
      { s0 := 0xFF800000#32, s1 := 0xFF800000#32, s2 := 0x7FC00000#32 } := by decide +kernel
/-- Log entry 11: what R171, R176, R177 give where R179 (b) and (c) say otherwise. -/
theorem test_overflowing_finite_input_meets_infinity :
    (kinDatapath referenceRom 0x7F7FFFFF#32 0x7F800000#32 0x00000000#32).s0 = 0x7FC00000#32 ∧
    (kinDatapath referenceRom 0x7F800000#32 0x7F7FFFFF#32 0x00000000#32).s0 = 0x7FC00000#32 := by decide +kernel
/-- Log entry 12: what R176, R177 give for the negative smallest subnormal, where R181 item 2 says otherwise. -/
theorem test_smallest_negative_rotation :
    kinDatapath referenceRom 0x00000000#32 0x00000000#32 0x80000001#32 =
      { s0 := 0x00000000#32, s1 := 0x80000000#32, s2 := 0x00000000#32 } := by decide +kernel
/-- The literals of `30_encoding.md` R78. -/
theorem test_float_literals :
    floatLiteral false 15 10 = 0x3FC00000#32 ∧ floatLiteral true 225 100 = 0xC0100000#32 ∧
    floatLiteral false 1 10 = 0x3DCCCCCD#32 ∧ floatLiteral false 0 1 = 0x00000000#32 ∧
    floatLiteral true 0 1 = 0x80000000#32 := by decide +kernel

/-! TICK and STOP (section 2.6: T2, T5) -/

theorem test_tick_T2 :
    after (fun t => (t.crc, frameBytes t.frame, t.fv)) 0x3200000000#40
      (withIntent 0x3DCCCCCD#32 0x00000000#32 0x00000000#32) =
    some (0x2D226A66#32, [0x2A#8, 0xD2#8, 0xE8#8, 0xBE#8, 0x2A#8, 0xD2#8, 0xE8#8, 0xBE#8, 0x2A#8, 0xD2#8, 0x68#8,
      0x3F#8, 0x66#8, 0x6A#8, 0x22#8, 0x2D#8], true) := by decide +kernel
theorem test_stop_T5 :
    after id 0x0100000000#40 { withIntent 0x3E99999A#32 0xBECCCCCD#32 0x3F000000#32 with
      s1 := 0x400129D0#32, crc := 0x1D480245#32, frame := [(0, 0x14#8), (7, 0x40#8), (15, 0x1D#8)] } =
    some { State.reset with
      crc := 0x099C5421#32, fv := true
      frame := [(12, 0x21#8), (13, 0x54#8), (14, 0x9C#8), (15, 0x09#8)] } := by decide +kernel

/-! The step: the first instruction after reset, and reset beside a command -/

theorem test_step_fetch_word :
    (stateOf (step (State.reset.withFetchWord 40 0x203DCCCCCD))) =
    some { State.reset with x := 0x3DCCCCCD#32 } := by decide +kernel
theorem test_step_reset_wins :
    (stateOf (step { withSamples [resetSample] with x := 0x3F800000#32, fv := true })) = some State.reset := by
  decide +kernel

/-! Witnesses: the hypotheses of each statement can be met together -/

theorem witness_wf : (Instr.ldX 0x80000000#32).wf = true := by decide

theorem witness_decode_ok : decode 0x11FFFFFF41#40 = .ok (.crcByte 0x41#8) ∧
    decode 0x12FFFFFFFF#40 = .ok (.crcWord 0xFFFFFFFF#32) ∧ decode 0x32FFFFFFFF#40 = .ok .tick := by decide

theorem witness_row_match : ∃ r ∈ opcodeTable, 0x20FFFFFFFF#40 &&& r.mask = r.matchWord := by decide

theorem witness_reserved_bounds :
    ([0x02#8, 0x0F#8, 0x13#8, 0x1F#8, 0x23#8, 0x27#8, 0x2B#8, 0x2F#8, 0x33#8, 0xFF#8].all isReservedOpcode) = true ∧
    ([0x01#8, 0x10#8, 0x12#8, 0x20#8, 0x22#8, 0x28#8, 0x2A#8, 0x30#8, 0x32#8].any isReservedOpcode) = false := by
  decide

theorem witness_step_runs_command :
    (withSamples [present 0x3200000000#40, idleSample]).inputs = present 0x3200000000#40 :: [idleSample] ∧
    (present 0x3200000000#40).rst = false ∧ (present 0x3200000000#40).cmdValid = true ∧
    decode (present 0x3200000000#40).cmd = .ok .tick ∧ Instr.wf .tick = true := by decide

theorem witness_step_reserved :
    (withSamples [present 0xFF12345678#40]).inputs = present 0xFF12345678#40 :: [] ∧
    (present 0xFF12345678#40).rst = false ∧ (present 0xFF12345678#40).cmdValid = true ∧
    decode (present 0xFF12345678#40).cmd = .error (.reservedOpcode 0xFF#8) := by decide

theorem witness_reset_twice :
    (withSamples [resetSample, resetSample]).inputs = resetSample :: [resetSample] ∧ resetSample.rst = true := by
  decide

theorem witness_hold :
    (withSamples [idleSample]).inputs = idleSample :: [] ∧ idleSample.rst = false ∧ idleSample.cmdValid = false ∧
    State.reset.inputs = [] := by decide

theorem witness_presented_commands :
    (∀ p ∈ [idleSample, present 0x3200000000#40], p.rst = false) ∧
    (withSamples [idleSample, present 0x3200000000#40, resetSample]).inputs =
      [idleSample, present 0x3200000000#40] ++ [resetSample] := by decide

theorem witness_crc_init : exec .crcInit State.reset = .next (State.reset.setCrc 0xFFFFFFFF#32) := rfl

theorem witness_crc_linear : [0x31#8, 0x32#8].length = [0x00#8, 0xFF#8].length := rfl

theorem witness_crc_single_bit : 0 < [0x31#8].length := by decide

theorem witness_pack : State.reset.frame.wf ∧ exec .pack State.reset = .next (packOp State.reset) ∧
    exec .pack { State.reset with s0 := 0x3FC00000#32, s1 := 0xC0100000#32, s2 := 0x00000000#32 } =
      .next (packOp (withSpeeds 0x3FC00000#32 0xC0100000#32 0x00000000#32)) := ⟨by decide, rfl, rfl⟩

theorem witness_frame_commands :
    exec .pack State.reset = .next (packOp State.reset) ∧
    exec .tick State.reset = .next (tickOp referenceKin State.reset) ∧
    exec .stop State.reset = .next (packOp (clearMotion State.reset)) := ⟨rfl, rfl, rfl⟩

/-- Bits 0 and 31, one flipped in each register. -/
theorem witness_payload_flip :
    exec .pack State.reset = .next (packOp State.reset) ∧
    exec .pack { State.reset with s0 := State.reset.s0 ^^^ (0x00000001#32 <<< 0) } =
      .next (packOp (State.reset.setS0 0x00000001#32)) ∧
    exec .pack { State.reset with s1 := State.reset.s1 ^^^ (0x00000001#32 <<< 31) } =
      .next (packOp (State.reset.setS1 0x80000000#32)) ∧
    exec .pack { State.reset with s2 := State.reset.s2 ^^^ (0x00000001#32 <<< 31) } =
      .next (packOp (State.reset.setS2 0x80000000#32)) := ⟨rfl, rfl, rfl, rfl⟩

/-- One pattern of each row of the table of R175, at the ends of its range. -/
theorem witness_pattern_classes :
    (expField 0x7F800001#32 = 255 ∧ fracField 0x7F800001#32 ≠ 0) ∧
    (expField 0xFF800000#32 = 255 ∧ fracField 0xFF800000#32 = 0) ∧
    expField 0x807FFFFF#32 = 0 ∧ expField 0x00800000#32 = 1 ∧ expField 0x7F7FFFFF#32 = 254 := by decide +kernel

/-- Operands for each clause of the rule of multiplication. -/
theorem witness_fmul_clauses :
    isNaN 0x7F800001#32 = true ∧ (isInf 0x7F800000#32 = true ∧ isZero 0x80000000#32 = true) ∧
    (isNaN 0xFF800000#32 = false ∧ isNaN 0x00000001#32 = false ∧ isZero 0xFF800000#32 = false ∧
      isZero 0x00000001#32 = false ∧ isInf 0xFF800000#32 = true) ∧
    (isFinite 0x80000000#32 = true ∧ isFinite 0x7F7FFFFF#32 = true ∧ isZero 0x80000000#32 = true) ∧
    (isFinite 0x00000001#32 = true ∧ isFinite 0x7F7FFFFF#32 = true ∧ isZero 0x00000001#32 = false ∧
      isZero 0x7F7FFFFF#32 = false) := by decide +kernel

/-- Operands for each clause of the rule of addition. -/
theorem witness_fadd_clauses :
    (isInf 0x7F800000#32 = true ∧ isInf 0xFF800000#32 = true ∧ signBit 0x7F800000#32 ≠ signBit 0xFF800000#32) ∧
    (isZero 0x00000000#32 = true ∧ isZero 0x80000000#32 = true ∧ signBit 0x00000000#32 ≠ signBit 0x80000000#32) ∧
    (isFinite 0x7F7FFFFF#32 = true ∧ isFinite 0xFF7FFFFF#32 = true ∧ isZero 0x7F7FFFFF#32 = false ∧
      scaledValue 0x7F7FFFFF#32 + scaledValue 0xFF7FFFFF#32 = 0) ∧
    (isFinite 0x00000001#32 = true ∧ isZero 0x00000001#32 = false ∧
      scaledValue 0x7F7FFFFF#32 + scaledValue 0x00000001#32 ≠ 0) := by decide +kernel

/-- The largest finite pattern and its negation have real sum 0. -/
theorem witness_fadd_zero_sum : realValue 0x7F7FFFFF#32 + realValue 0xFF7FFFFF#32 = 0 := by
  have h : binary32Value 0x7F7FFFFF#32 + binary32Value 0xFF7FFFFF#32 = 0 := by decide +kernel
  unfold realValue
  exact_mod_cast h

/-- 1.0 and the smallest subnormal have a real sum that is not 0. -/
theorem witness_fadd_nonzero_sum : realValue 0x3F800000#32 + realValue 0x00000001#32 ≠ 0 := by
  have h : binary32Value 0x3F800000#32 + binary32Value 0x00000001#32 ≠ 0 := by decide +kernel
  unfold realValue
  exact_mod_cast h

/-- The intent of K7 meets the bound's premises in every lane. -/
theorem witness_kin_bound :
    isFinite 0x3E99999A#32 = true ∧ isFinite 0xBECCCCCD#32 = true ∧ isFinite 0x3F000000#32 = true ∧
    (∀ i : Fin 3, ProductInNormalRange referenceRom.kx[i] 0x3E99999A#32 ∧
      ProductInNormalRange referenceRom.ky[i] 0xBECCCCCD#32) ∧
    ProductInNormalRange referenceRom.kw 0x3F000000#32 ∧
    (∀ i : Fin 3, isFinite ((kinDatapath referenceRom 0x3E99999A#32 0xBECCCCCD#32 0x3F000000#32).get i) = true) := by
  decide +kernel

theorem witness_kin : exec .kin (withIntent 0x3E99999A#32 0xBECCCCCD#32 0x3F000000#32) =
    .next (kinOp referenceKin (withIntent 0x3E99999A#32 0xBECCCCCD#32 0x3F000000#32)) := rfl

/-- The rotations at the ends of each clause: both smallest subnormals, their neighbours, and the largest. -/
theorem witness_rotation :
    (isZero 0x80000000#32 = true ∧ isZero 0x00000000#32 = true) ∧
    [0x00000001#32, 0x00000002#32, 0x80000002#32, 0x7F7FFFFF#32].all (fun w =>
      isFinite w && !isZero w && w != 0x80000001#32) = true ∧
    exec .kin (withIntent 0x80000000#32 0x00000000#32 0x80000001#32) =
      .next (kinOp referenceKin (withIntent 0x80000000#32 0x00000000#32 0x80000001#32)) :=
  ⟨by decide +kernel, by decide +kernel, rfl⟩

/-- 0x7B4097CE is the greatest pattern whose value is at most 10^36. -/
theorem witness_moderate :
    |binary32Value 0x7B4097CE#32| ≤ 10 ^ 36 ∧ ¬ |binary32Value 0x7B4097CF#32| ≤ 10 ^ 36 := by decide +kernel

/-- Inputs for each clause on infinities: an infinite y, an infinite x, and opposite infinities in one lane. -/
theorem witness_infinities :
    (isInf 0x7F800000#32 = true ∧ isFinite (fmul referenceRom.kx[0] 0x3F800000#32) = true ∧
      isFinite (fmul referenceRom.ky[0] 0x3F800000#32) = true ∧
      isFinite (fmul referenceRom.kw 0x7F7FFFFF#32) = true ∧ isFinite 0x3F800000#32 = true) ∧
    (isInf (fadd (fmul referenceRom.kx[2] 0x7F800000#32) (fmul referenceRom.ky[2] 0x00000000#32)) = true ∧
      isInf (fmul referenceRom.kw 0xFF800000#32) = true ∧
      signBit (fadd (fmul referenceRom.kx[2] 0x7F800000#32) (fmul referenceRom.ky[2] 0x00000000#32)) ≠
        signBit (fmul referenceRom.kw 0xFF800000#32)) ∧
    isNaN (fmul 0x7F800000#32 0x00000000#32) = true ∧ isNaN (fadd 0x7F800000#32 0xFF800000#32) = true := by
  decide +kernel

theorem witness_stop_frame : Memory.wf [(0, 0x14#8), (7, 0x40#8), (15, 0x1D#8)] := by decide

theorem witness_step_at_reset : step State.reset = .next State.reset := rfl

/-- A state with a frame that meets the invariant and answers a step. -/
theorem witness_invariant :
    let s := { State.reset with
      crc := 0x099C5421#32, fv := true
      frame := [(12, 0x21#8), (13, 0x54#8), (14, 0x9C#8), (15, 0x09#8)] }
    Inv s ∧ step s = .next s :=
  ⟨⟨by decide, fun _ => by decide +kernel, fun h => by cases h⟩, rfl⟩

theorem witness_fv_cleared : stateOf (step { withSamples [resetSample] with fv := true }) = some State.reset := by
  decide +kernel

theorem witness_fv_set_and_frame_changed :
    (stateOf (step (withSamples [present 0x3200000000#40]))).map (fun t => (t.fv, t.frame.read 12)) =
      some (true, 0x21#8) ∧ State.reset.fv = false ∧ State.reset.frame.read 12 = 0x00#8 := by decide +kernel

/-- Contents of the frame buffer in canonical form, at the first and the last offset. -/
theorem witness_canonical_block :
    Memory.wf { Block.reset with frame := [(0, 0x01#8), (15, 0xFF#8)] }.frame := by decide

/-- Two states that agree on what `PACK` reads and on nothing else it writes. -/
theorem witness_pack_reads :
    (∀ c ∈ readsOf .pack, c.same State.reset { State.reset with crc := 0x12345678#32, fv := true, x := 0x3F800000#32 }) ∧
    exec .pack State.reset = .next (packOp State.reset) := by
  refine ⟨fun c hc => ?_, rfl⟩
  simp only [readsOf, List.mem_cons, List.not_mem_nil, or_false] at hc
  rcases hc with rfl | rfl | rfl <;> rfl

end Sys2Proof.Tests
end

section
/-! SUPPORT. The reset pattern of the frame buffer (`10_state.md` R33): contents whose every byte is 0x00 are no frame,
because the CRC word they hold is 0 and the CRC of twelve zero bytes is not. -/

namespace Sys2Proof.Machine

/-- The CRC of a zero payload (`95_test_vectors.md` vector P2). -/
theorem crc32m_twelve_zero_bytes : crc32m (List.replicate 12 0x00#8) = 0x099C5421#32 := by
  decide +kernel

theorem Memory.loadWord_of_read_zero {m : Memory} (hm : ∀ a, m.read a = 0x00#8) (k : Fin 4) :
    m.loadWord k = 0x00000000#32 := by
  simp only [Memory.loadWord, hm]
  rfl

theorem Memory.crcView_of_read_zero {m : Memory} (hm : ∀ a, m.read a = 0x00#8) :
    m.crcView = List.replicate 12 0x00#8 := by
  simp only [Memory.crcView, hm]
  rfl

/-- The reset pattern, in whatever cells it is held, is no coherent frame. -/
theorem not_frameCoherent_of_read_zero {m : Memory} (hm : ∀ a, m.read a = 0x00#8) : ¬ FrameCoherent m := by
  intro hcoherent
  have hcrc : (0x00000000#32 : Word) = 0x099C5421#32 :=
    calc 0x00000000#32
      _ = m.loadWord 3 := (Memory.loadWord_of_read_zero hm 3).symm
      _ = crc32m m.crcView := hcoherent
      _ = crc32m (List.replicate 12 0x00#8) := by rw [Memory.crcView_of_read_zero hm]
      _ = 0x099C5421#32 := crc32m_twelve_zero_bytes
  exact absurd hcrc (by decide)

theorem reset_frame_read (a : Offset) : State.reset.frame.read a = 0x00#8 :=
  Memory.read_nil a

/-- Settles O14: the registers, `CRC` and `FV` are the fields `Block.reset` is built of; the frame buffer reads as zero
at every offset and is therefore no coherent frame. -/
theorem resetStateHasTheStatedValues : Obligations.ResetStateHasTheStatedValues :=
  ⟨Block.reset_x, Block.reset_y, Block.reset_w, Block.reset_s0, Block.reset_s1, Block.reset_s2, Block.reset_crc,
    reset_frame_read, Block.reset_fv, crc32m_twelve_zero_bytes, not_frameCoherent_of_read_zero reset_frame_read⟩

end Sys2Proof.Machine
end

section
/-! SUPPORT. The CRC input view (`20_memory.md` R53): twelve bytes, in each of the three payload words the byte of the
greatest offset first. -/

namespace Sys2Proof.Machine

@[simp] theorem Memory.length_crcView (m : Memory) : m.crcView.length = 12 := rfl

/-- The view by offset, with the places `frameOffset k j` evaluated. -/
theorem Memory.crcView_eq_reads (m : Memory) :
    m.crcView = [m.read 3, m.read 2, m.read 1, m.read 0, m.read 7, m.read 6, m.read 5, m.read 4,
      m.read 11, m.read 10, m.read 9, m.read 8] := rfl

/-- The mirrored place `3 - j` of word `k`, as the offset `4k + 3 - j` that R53 writes. -/
theorem frameOffset_rev (k : Fin 3) (j : Fin 4) :
    frameOffset k.castSucc j.rev = ⟨4 * k.val + 3 - j.val, by omega⟩ := by
  ext
  simp only [frameOffset, Fin.val_castSucc, Fin.val_rev]
  omega

/-- The view byte by byte: place `j` of word `k` holds the byte of that word at the mirrored place. -/
theorem Memory.getElem?_crcView (m : Memory) (k : Fin 3) (j : Fin 4) :
    m.crcView[4 * k.val + j.val]? = some (m.read (frameOffset k.castSucc j.rev)) := by
  match k with
  | 0 => fin_cases j <;> rfl
  | 1 => fin_cases j <;> rfl
  | 2 => fin_cases j <;> rfl

/-- Settles O29: the indexed form is the byte-by-byte lemma with the mirrored place written as an offset; the listed
order is the definition with its offsets evaluated. -/
theorem crcViewReversesBytesInEachWord : Obligations.CrcViewReversesBytesInEachWord :=
  fun m => ⟨m.length_crcView, fun k j => frameOffset_rev k j ▸ m.getElem?_crcView k j, m.crcView_eq_reads⟩

end Sys2Proof.Machine
end

section
/-! SUPPORT. Decoding by `op` alone (`30_encoding.md` R74): the reserved opcodes are those of no command (R76), and the
bits of `imm` a command does not take do not reach it (R75). -/

namespace Sys2Proof.Machine

/-! The reserved opcodes -/

/-- The one case analysis of the decoder: a command of the word's own opcode, or the reserved command of an opcode that
no command has. -/
theorem decode_cases (w : CommandWord) :
    (∃ i, decode w = .ok i ∧ i.opcode = opField w) ∨
      (decode w = .error (.reservedOpcode (opField w)) ∧ ∀ i : Instr, i.opcode ≠ opField w) := by
  unfold decode
  split
  case h_15 =>
    refine .inr ⟨rfl, fun i hi => ?_⟩
    cases i <;> exact absurd hi.symm ‹_›
  all_goals exact .inl ⟨_, rfl, Eq.symm ‹_›⟩

theorem decode_eq_reserved_iff (w : CommandWord) :
    decode w = .error (.reservedOpcode (opField w)) ↔ ∀ i : Instr, i.opcode ≠ opField w := by
  rcases decode_cases w with ⟨i, hok, hop⟩ | ⟨herror, hnone⟩
  · exact ⟨fun h => by simp [hok] at h, fun h => absurd hop (h i)⟩
  · exact ⟨fun _ => hnone, fun _ => herror⟩

theorem isReservedOpcode_opcode (i : Instr) : isReservedOpcode i.opcode = false := by
  cases i <;> rfl

/-- Between the reserved ranges stand the fourteen opcodes of the map. -/
theorem exists_opcode_eq_of_not_reserved {op : BitVec 8} (h : isReservedOpcode op = false) :
    ∃ i : Instr, i.opcode = op := by
  have hgaps : op.toNat = 0x00 ∨ op.toNat = 0x01 ∨ op.toNat = 0x10 ∨ op.toNat = 0x11 ∨ op.toNat = 0x12 ∨
      op.toNat = 0x20 ∨ op.toNat = 0x21 ∨ op.toNat = 0x22 ∨ op.toNat = 0x28 ∨ op.toNat = 0x29 ∨
      op.toNat = 0x2A ∨ op.toNat = 0x30 ∨ op.toNat = 0x31 ∨ op.toNat = 0x32 := by
    simp only [isReservedOpcode, Bool.or_eq_false_iff, Bool.and_eq_false_iff, decide_eq_false_iff_not] at h
    omega
  rcases hgaps with h | h | h | h | h | h | h | h | h | h | h | h | h | h
  · exact ⟨.nop, BitVec.eq_of_toNat_eq h.symm⟩
  · exact ⟨.stop, BitVec.eq_of_toNat_eq h.symm⟩
  · exact ⟨.crcInit, BitVec.eq_of_toNat_eq h.symm⟩
  · exact ⟨.crcByte 0#8, BitVec.eq_of_toNat_eq h.symm⟩
  · exact ⟨.crcWord 0#32, BitVec.eq_of_toNat_eq h.symm⟩
  · exact ⟨.ldX 0#32, BitVec.eq_of_toNat_eq h.symm⟩
  · exact ⟨.ldY 0#32, BitVec.eq_of_toNat_eq h.symm⟩
  · exact ⟨.ldW 0#32, BitVec.eq_of_toNat_eq h.symm⟩
  · exact ⟨.ldS0 0#32, BitVec.eq_of_toNat_eq h.symm⟩
  · exact ⟨.ldS1 0#32, BitVec.eq_of_toNat_eq h.symm⟩
  · exact ⟨.ldS2 0#32, BitVec.eq_of_toNat_eq h.symm⟩
  · exact ⟨.kin, BitVec.eq_of_toNat_eq h.symm⟩
  · exact ⟨.pack, BitVec.eq_of_toNat_eq h.symm⟩
  · exact ⟨.tick, BitVec.eq_of_toNat_eq h.symm⟩

theorem isReservedOpcode_iff (op : BitVec 8) : isReservedOpcode op = true ↔ ∀ i : Instr, i.opcode ≠ op := by
  constructor
  · rintro h i rfl
    simp [isReservedOpcode_opcode] at h
  · intro h
    by_contra hres
    obtain ⟨i, hi⟩ := exists_opcode_eq_of_not_reserved (Bool.eq_false_iff.mpr hres)
    exact h i hi

theorem isReservedOpcode_iff_decode (op : BitVec 8) (imm : Word) :
    isReservedOpcode op = true ↔ decode (commandWord op imm) = .error (.reservedOpcode op) :=
  calc isReservedOpcode op = true
    _ ↔ ∀ i : Instr, i.opcode ≠ op := isReservedOpcode_iff op
    _ ↔ decode (commandWord op imm) = .error (.reservedOpcode op) := by
      simpa using (decode_eq_reserved_iff (commandWord op imm)).symm

theorem exec_nop (s : State) : exec .nop s = .next s := rfl

theorem execReserved_eq (op : BitVec 8) (s : State) : execReserved op s = .next s := rfl

theorem acceptCommand_of_isReservedOpcode {op : BitVec 8} (h : isReservedOpcode op = true) (imm : Word) (s : State) :
    acceptCommand (commandWord op imm) s = .next s :=
  (acceptCommand_reserved ((isReservedOpcode_iff_decode op imm).mp h) s).trans (execReserved_eq op s)

/-- The last of the reserved ranges, 0x33 to 0xFF. -/
theorem isReservedOpcode_ofNat_of_ge {n : Nat} (hge : 0x33 ≤ n) (hlt : n < 256) :
    isReservedOpcode (BitVec.ofNat 8 n) = true := by
  have htoNat : (BitVec.ofNat 8 n).toNat = n := by simp [Nat.mod_eq_of_lt hlt]
  simp [isReservedOpcode, htoNat, hge]

/-- Of the 51 opcodes below 0x33 all but the fourteen of the map are reserved, and so are the 205 from 0x33 on. -/
theorem length_reservedOpcodes :
    ((List.range 256).filter fun n => isReservedOpcode (BitVec.ofNat 8 n)).length = 242 := by
  have hlow : ((List.range 0x33).filter fun n => isReservedOpcode (BitVec.ofNat 8 n)).length = 37 := by decide
  have hhigh : ((List.range 205).map (0x33 + ·)).filter (fun n => isReservedOpcode (BitVec.ofNat 8 n)) =
      (List.range 205).map (0x33 + ·) := by
    refine List.filter_eq_self.mpr fun n hn => ?_
    obtain ⟨k, hk, rfl⟩ := List.mem_map.mp hn
    have hk' := List.mem_range.mp hk
    exact isReservedOpcode_ofNat_of_ge (by omega) (by omega)
  rw [show 256 = 0x33 + 205 from rfl, List.range_add, List.filter_append, hhigh, List.length_append, hlow,
    List.length_map, List.length_range]

/-- Settles O4: reserved opcodes are those of no command, which is when the decoder answers the reserved command; that
command is the identity on states, as `NOP` is. -/
theorem reservedOpcodesAreNoOps : Obligations.ReservedOpcodesAreNoOps := by
  refine ⟨length_reservedOpcodes, isReservedOpcode_iff_decode, fun op imm s h => ?_, fun s => ?_⟩
  · have hnext := acceptCommand_of_isReservedOpcode h imm s
    exact ⟨hnext, hnext.trans (exec_nop s).symm⟩
  · have hreserved : isReservedOpcode 0xFF#8 = true := by decide
    exact acceptCommand_of_isReservedOpcode hreserved 0x12345678#32 s

/-! The ignored bits of the immediate -/

/-- The commands of immediate use `none` are decoded from `op` alone. -/
theorem decode_use_none (imm : Word) :
    decode (commandWord 0x00#8 imm) = .ok .nop ∧ decode (commandWord 0x01#8 imm) = .ok .stop ∧
    decode (commandWord 0x10#8 imm) = .ok .crcInit ∧ decode (commandWord 0x30#8 imm) = .ok .kin ∧
    decode (commandWord 0x31#8 imm) = .ok .pack ∧ decode (commandWord 0x32#8 imm) = .ok .tick := by
  simp [decode]

theorem decode_crcByte (imm : Word) : decode (commandWord 0x11#8 imm) = .ok (.crcByte (byteOf imm 0)) := by
  simp [decode]

/-- The byte an immediate ends in, whatever stands above it. -/
@[simp] theorem byteOf_zero_append (hi : BitVec 24) (b : Byte) : byteOf (hi ++ b) 0 = b :=
  BitVec.extractLsb'_append_eq_right

theorem decode_crcByte_append (hi : BitVec 24) (b : Byte) :
    decode (commandWord 0x11#8 (hi ++ b)) = .ok (.crcByte b) := by
  rw [decode_crcByte, byteOf_zero_append]

/-- Settles O5: `CRC.BYTE` is decoded from the last byte of `imm` and the commands of use `none` from no bit of it;
`encode` writes the zero bits of `Instr.immediate`. -/
theorem ignoredImmediateBitsHaveNoEffect : Obligations.IgnoredImmediateBitsHaveNoEffect := by
  refine ⟨decode_crcByte_append, decode_use_none, fun b => ?_, ?_, ?_⟩
  · exact congrArg (commandWord 0x11#8) (BitVec.setWidth_eq_append (by decide))
  · exact ⟨rfl, rfl, rfl, rfl, rfl, rfl⟩
  · calc decode 0x11FFFFFF41#40
      _ = decode (commandWord 0x11#8 (0xFFFFFF#24 ++ 0x41#8)) := rfl
      _ = .ok (.crcByte 0x41#8) := decode_crcByte_append _ _
      _ = decode (commandWord 0x11#8 (0x000000#24 ++ 0x41#8)) := (decode_crcByte_append _ _).symm
      _ = decode 0x1100000041#40 := rfl

end Sys2Proof.Machine
end

section
/-! SUPPORT. The byte update of the CRC unit (`41_crc.md` R122 to R126, R130). It all rests on one fact: what is XORed
into the top of the register is fed by the zero bits that follow, and what is left of it is shifted on. -/

namespace Sys2Proof.Machine

/-! One data bit -/

theorem upd1_eq_ite (c : Word) (b : Bool) :
    upd1 c b = if (c.getLsbD 31 ^^ b) = true then (c <<< 1) ^^^ 0x04C11DB7#32 else c <<< 1 := by
  rw [upd1_eq, BitVec.msb_eq_getLsbD_last]
  rfl

/-- The data bit as a selection by a Boolean, which `simp only` evaluates on literals. -/
theorem upd1_eq_cond (c : Word) (b : Bool) :
    upd1 c b = bif c.getLsbD 31 ^^ b then (c <<< 1) ^^^ 0x04C11DB7#32 else c <<< 1 := by
  rw [upd1_eq_ite, cond_eq_ite]

/-- A zero bit is the conditional shift step of the other forms (R123). -/
theorem upd1_false (c : Word) : upd1 c false = shiftStep crcParams c c.msb := by
  rw [upd1_eq, Bool.xor_false]

/-- A data bit equal to the bit shifted out leaves a plain shift. -/
theorem upd1_msb (d : Word) : upd1 d d.msb = d <<< 1 := by
  rw [upd1_eq, Bool.xor_self]
  rfl

/-- The reason R130 gives: XORing a bit into bit 31 is feeding it. -/
theorem upd1_xor_top (c d : Word) : upd1 (c ^^^ d) false = upd1 c d.msb ^^^ (d <<< 1) :=
  calc upd1 (c ^^^ d) false
    _ = upd1 (c ^^^ d) (d.msb ^^ d.msb) := by rw [Bool.xor_self]
    _ = upd1 c d.msb ^^^ upd1 d d.msb := upd1_xor c d d.msb d.msb
    _ = upd1 c d.msb ^^^ (d <<< 1) := by rw [upd1_msb]

/-! One byte -/

/-- A zero byte is eight zero bits. -/
theorem upd8_zero_byte (c : Word) : upd8 c 0x00#8 =
    upd1 (upd1 (upd1 (upd1 (upd1 (upd1 (upd1 (upd1 c false) false) false) false) false) false) false) false := by
  simp only [upd8_eq, BitVec.getLsbD_zero]

/-- Bit `k` of the top byte is in bit 31 after the `7 - k` bits above it are shifted out. -/
theorem getLsbD_byteOf_three (d : Word) {k : Nat} (hk : k < 8) :
    (byteOf d 3).getLsbD k = (d <<< (7 - k)).msb :=
  calc (byteOf d 3).getLsbD k
    _ = d.getLsbD (24 + k) := by rw [byteOf, BitVec.getLsbD_extractLsb', decide_eq_true hk, Bool.true_and]; rfl
    _ = d.getMsbD (7 - k) := by
      rw [BitVec.getMsbD_eq_getLsbD, decide_eq_true (by omega), Bool.true_and]
      congr 1
      omega
    _ = (d <<< (7 - k)).msb := BitVec.msb_shiftLeft.symm

/-- `upd1_xor_top` eight times over: the top byte of `d` is fed, the other three move up. -/
theorem upd8_xor_top (c d : Word) : upd8 (c ^^^ d) 0x00#8 = upd8 c (byteOf d 3) ^^^ (d <<< 8) := by
  rw [upd8_zero_byte]
  simp only [upd8_eq, upd1_xor_top, getLsbD_byteOf_three, ← BitVec.shiftLeft_add, BitVec.shiftLeft_zero,
    Nat.reduceAdd, Nat.reduceSub, Nat.reduceLT]

/-- A byte placed at the top of a word is the word's top byte. -/
theorem byteOf_three_shiftLeft (b : Byte) : byteOf (b.setWidth 32 <<< 24) 3 = b := by
  apply BitVec.eq_of_getLsbD_eq
  intro i hi
  have htop : (b.setWidth 32 <<< 24).getLsbD (24 + i) = b.getLsbD i := by
    rw [BitVec.getLsbD_shiftLeft, BitVec.getLsbD_setWidth, Nat.add_sub_cancel_left, decide_eq_true (by omega),
      decide_eq_false (by omega), decide_eq_true (by omega)]
    rfl
  rw [byteOf, BitVec.getLsbD_extractLsb', decide_eq_true hi, Bool.true_and]
  exact htop

theorem shiftLeft_top_byte (b : Byte) : (b.setWidth 32 <<< 24) <<< 8 = 0#32 := by
  rw [← BitVec.shiftLeft_add]
  exact BitVec.shiftLeft_eq_zero (by decide)

theorem byteOf_xor (c d : Word) (j : Fin 4) : byteOf (c ^^^ d) j = byteOf c j ^^^ byteOf d j :=
  BitVec.extractLsb'_xor

/-- Feeding a byte is XORing it into the top and feeding eight zero bits. -/
theorem upd8_eq_xor_top_byte (c : Word) (b : Byte) : upd8 c b = upd8 (c ^^^ (b.setWidth 32 <<< 24)) 0x00#8 := by
  rw [upd8_xor_top, byteOf_three_shiftLeft, shiftLeft_top_byte, BitVec.xor_zero]

/-- A zero byte by the table: the case `c = 0` of `upd8_xor_top`. -/
theorem upd8_zero_byte_eq_table (d : Word) : upd8 d 0x00#8 = upd8 0#32 (byteOf d 3) ^^^ (d <<< 8) := by
  simpa using upd8_xor_top 0#32 d

theorem upd8_eq_upd8XorIn (c : Word) (b : Byte) : upd8 c b = upd8XorIn c b := by
  rw [upd8_eq_xor_top_byte, upd8_zero_byte]
  simp only [upd8XorIn, Nat.repeat, upd1_false]

theorem upd8_eq_upd8Table (c : Word) (b : Byte) : upd8 c b = upd8Table (fun i => upd8 0x00000000#32 i) c b :=
  calc upd8 c b
    _ = upd8 (c ^^^ (b.setWidth 32 <<< 24)) 0x00#8 := upd8_eq_xor_top_byte c b
    _ = upd8 0#32 (byteOf c 3 ^^^ b) ^^^ (c <<< 8) := by
      rw [upd8_zero_byte_eq_table, byteOf_xor, byteOf_three_shiftLeft, BitVec.shiftLeft_xor_distrib,
        shiftLeft_top_byte, BitVec.xor_zero]
    _ = upd8Table (fun i => upd8 0x00000000#32 i) c b := BitVec.xor_comm _ _

/-- Settles O20: the XOR-in form feeds the byte XORed into the top as eight zero bits; the table form splits that
register into its top byte, which the table has, and the three bytes that only move. -/
theorem threeFormsOfByteUpdateAgree : Obligations.ThreeFormsOfByteUpdateAgree :=
  fun c b => ⟨upd8_eq_upd8XorIn c b, upd8_eq_upd8Table c b⟩

/-- Settles O19: the data bit with the polynomial written out, and the fold from the initial register. -/
theorem crcUpdateFunctions : Obligations.CrcUpdateFunctions :=
  ⟨upd1_eq_ite, crc32m_eq [], crc32m_eq⟩

end Sys2Proof.Machine
end

section
/-! SUPPORT. The only register value a zero byte leaves in place is 0 (`41_crc.md` R128): it is the only one a zero bit
leaves in place, and for a map linear over XOR that carries over from the map to its square, so from one zero bit to
two, four and eight. -/

namespace Sys2Proof.Machine

theorem eq_zero_of_shiftLeft_one_eq {c : Word} (h : c <<< 1 = c) : c = 0#32 := by
  bv_omega

/-- With the polynomial XORed in, the shift step leaves one value in place, and its bit 31 is 0. -/
theorem eq_of_shiftStep_true_eq {c : Word} (h : shiftStep crcParams c true = c) : c = 0x03BF0B6D#32 := by
  have hfixed : shiftStep crcParams 0x03BF0B6D#32 true = 0x03BF0B6D#32 := by decide
  have hshift : (c ^^^ 0x03BF0B6D#32) <<< 1 = c ^^^ 0x03BF0B6D#32 :=
    calc (c ^^^ 0x03BF0B6D#32) <<< 1
      _ = shiftStep crcParams (c ^^^ 0x03BF0B6D#32) (true ^^ true) := rfl
      _ = c ^^^ 0x03BF0B6D#32 := by rw [shiftStep_xor, h, hfixed]
  exact BitVec.xor_eq_zero_iff.mp (eq_zero_of_shiftLeft_one_eq hshift)

theorem eq_zero_of_upd1_false_eq {c : Word} (h : upd1 c false = c) : c = 0#32 := by
  rw [upd1_false] at h
  cases hmsb : c.msb with
  | false => exact eq_zero_of_shiftLeft_one_eq (by rwa [hmsb] at h)
  | true =>
    rw [hmsb] at h
    rw [eq_of_shiftStep_true_eq h] at hmsb
    exact absurd hmsb (by decide)

/-- If `f (f c) = c` then `f` fixes `f c ^^^ c`, so this is 0 and `f` fixes `c`. -/
theorem eq_zero_of_map_map_eq {f : Word → Word} (hxor : ∀ c d, f (c ^^^ d) = f c ^^^ f d)
    (hfix : ∀ {c}, f c = c → c = 0#32) {c : Word} (h : f (f c) = c) : c = 0#32 := by
  have hdiff : f (f c ^^^ c) = f c ^^^ c := by rw [hxor, h, BitVec.xor_comm]
  exact hfix (BitVec.xor_eq_zero_iff.mp (hfix hdiff))

theorem upd1_false_xor (c d : Word) : upd1 (c ^^^ d) false = upd1 c false ^^^ upd1 d false :=
  upd1_xor c d false false

theorem eq_zero_of_two_zero_bits {c : Word} (h : upd1 (upd1 c false) false = c) : c = 0#32 :=
  eq_zero_of_map_map_eq upd1_false_xor eq_zero_of_upd1_false_eq h

theorem eq_zero_of_four_zero_bits {c : Word} (h : upd1 (upd1 (upd1 (upd1 c false) false) false) false = c) :
    c = 0#32 :=
  eq_zero_of_map_map_eq (f := fun c => upd1 (upd1 c false) false) (by simp [upd1_false_xor])
    eq_zero_of_two_zero_bits h

theorem upd8_zero_byte_eq_self_iff (c : Word) : upd8 c 0x00#8 = c ↔ c = 0x00000000#32 := by
  rw [upd8_zero_byte]
  constructor
  · exact eq_zero_of_map_map_eq (f := fun c => upd1 (upd1 (upd1 (upd1 c false) false) false) false)
      (by simp [upd1_false_xor]) eq_zero_of_four_zero_bits
  · rintro rfl
    rfl

end Sys2Proof.Machine
end

section
/-! SUPPORT. The commands of the CRC unit (`41_crc.md` R127 to R129): each puts a value into `CRC` and changes nothing
else, so a list of `CRC.BYTE` commands is one update of `CRC`. -/

namespace Sys2Proof.Machine

theorem exec_crcInit (s : State) : exec .crcInit s = .next (s.setCrc 0xFFFFFFFF#32) := rfl

theorem exec_crcByte (b : Byte) (s : State) : exec (.crcByte b) s = .next (s.setCrc (upd8 s.crc b)) := rfl

theorem exec_crcWord (v : Word) (s : State) : exec (.crcWord v) s = .next (s.setCrc (updw s.crc v)) := rfl

/-- The later of two loads of `CRC` stands. -/
@[simp] theorem State.setCrc_setCrc (s : State) (u v : Word) : (s.setCrc u).setCrc v = s.setCrc v := rfl

theorem decode_crcWord (v : Word) : decode (commandWord 0x12#8 v) = .ok (.crcWord v) := by
  simp [decode]

@[simp] theorem runInstrs_nil (s : State) : runInstrs [] s = .next s := rfl

/-- The first of a list of commands, when it answers a next state. -/
theorem runInstrs_cons {i : Instr} {s t : State} (h : exec i s = .next t) (is : List Instr) :
    runInstrs (i :: is) s = runInstrs is t := by
  simp [runInstrs, h]

/-- A list of `CRC.BYTE` commands feeds its bytes in order to whatever `CRC` holds. -/
theorem runInstrs_crcBytes (bytes : List Byte) (s : State) :
    runInstrs (bytes.map .crcByte) s = .next (s.setCrc (crcFrom s.crc bytes)) := by
  induction bytes generalizing s with
  | nil => exact runInstrs_nil s
  | cons b bs ih =>
    rw [List.map_cons, runInstrs_cons (exec_crcByte b s), ih, State.setCrc_setCrc, State.setCrc_crc, crcFrom_cons]

theorem runInstrs_crcInit_crcBytes (bytes : List Byte) (s : State) :
    runInstrs (.crcInit :: bytes.map .crcByte) s = .next (s.setCrc (crc32m bytes)) := by
  rw [runInstrs_cons (exec_crcInit s), runInstrs_crcBytes, State.setCrc_setCrc, State.setCrc_crc, crc32m_eq]

/-- A word update is its four bytes, most significant first (R124). -/
theorem crcFrom_beBytes (c v : Word) : crcFrom c (beBytes v) = updw c v := by
  rw [beBytes, crcFrom_cons, crcFrom_cons, crcFrom_cons, crcFrom_cons, crcFrom_nil, updw]

/-- `CRC.WORD` is four `CRC.BYTE` commands, most significant byte first (R129). -/
theorem runInstrs_crcBytes_beBytes (v : Word) (s : State) :
    runInstrs ((beBytes v).map .crcByte) s = exec (.crcWord v) s := by
  rw [runInstrs_crcBytes, crcFrom_beBytes, exec_crcWord]

/-- The values R128 and R129 print, and the value of the little-endian reading that R129 excludes, bit by bit. -/
theorem crc_example_values :
    upd8 0xFFFFFFFF#32 0x00#8 = 0x4E08BFB4#32 ∧ upd8 0xFFFFFFFF#32 0x31#8 = 0x9EFBCF93#32 ∧
    crcFrom 0xFFFFFFFF#32 [0x31#8, 0x32#8, 0x33#8, 0x34#8] = 0xA695C4AA#32 ∧
    crcFrom 0xFFFFFFFF#32 [0x34#8, 0x33#8, 0x32#8, 0x31#8] = 0xC2091428#32 := by
  simp only [crcFrom_cons, crcFrom_nil, upd8_eq, upd1_eq_cond, BitVec.reduceGetLsb, Bool.xor_true, Bool.xor_false,
    Bool.xor_self, Bool.not_false, cond_true, cond_false, BitVec.reduceHShiftLeft, BitVec.reduceXOr, and_self]

/-- Settles O23: what one command does, then the list of commands by induction; the zero byte is the lemma on fixed
values. -/
theorem crcByteFeedsOneByte : Obligations.CrcByteFeedsOneByte := by
  obtain ⟨hzero, hcrc, -, -⟩ := crc_example_values
  refine ⟨fun hi b s => ⟨decode_crcByte_append hi b, exec_crcByte b s⟩,
    fun bytes s => ⟨runInstrs_crcInit_crcBytes bytes s, runInstrs_crcBytes bytes s⟩, hzero,
    upd8_zero_byte_eq_self_iff, fun s => ?_⟩
  have hdecode : decode 0x1100000031#40 = .ok (.crcByte 0x31#8) := decode_crcByte_append 0x000000#24 0x31#8
  rw [acceptCommand_ok hdecode, exec_crcByte, hcrc]
  rfl

/-- Settles O22: `CRC` is loaded with a constant, so the second `CRC.INIT` loads what is there. -/
theorem crcInitLoadsTheInitialRegister : Obligations.CrcInitLoadsTheInitialRegister := by
  have hdecode : ∀ imm : Word, decode (commandWord 0x10#8 imm) = .ok .crcInit := fun imm => by
    obtain ⟨-, -, hinit, -⟩ := decode_use_none imm
    exact hinit
  refine ⟨fun imm s => ⟨hdecode imm, exec_crcInit s⟩, fun s t h => ?_,
    fun s => acceptCommand_ok (hdecode 0x00000000#32) _⟩
  rw [exec_crcInit] at h
  obtain rfl := Host.Outcome.next.inj h
  exact exec_crcInit _

/-- Settles O24: the four bytes of the word most significant first are what `updw` feeds; the little-endian order is
told apart by its value. -/
theorem crcWordFeedsFourBytes : Obligations.CrcWordFeedsFourBytes := by
  obtain ⟨-, -, hbe, hle⟩ := crc_example_values
  have hcrc : updw 0xFFFFFFFF#32 0x31323334#32 = 0xA695C4AA#32 := (crcFrom_beBytes _ _).symm.trans hbe
  refine ⟨fun v s => ⟨decode_crcWord v, exec_crcWord v s, runInstrs_crcBytes_beBytes v s⟩, ?_, fun s => ?_⟩
  · rw [hcrc, show leBytes 0x31323334#32 = [0x34#8, 0x33#8, 0x32#8, 0x31#8] from rfl, hle]
    decide
  · have hdecode : decode 0x1231323334#40 = .ok (.crcWord 0x31323334#32) := decode_crcWord 0x31323334#32
    rw [acceptCommand_ok hdecode, exec_crcWord, hcrc]
    rfl

end Sys2Proof.Machine
end

section
/-! SUPPORT. Feeding a word is XORing it into the register and feeding 32 zero bits (`41_crc.md` R130), and zero bits
keep different register values different. So the register after a word tells both the register before it and the word
apart: what the bit-flip property of the frame (`42_frame_pack.md` R157) rests on. -/

namespace Sys2Proof.Machine

/-! Zero bits keep registers apart -/

/-- A zero bit empties no register but the empty one: the polynomial ends in a 1, a register shifted left does not. -/
theorem eq_zero_of_upd1_false_eq_zero {c : Word} (h : upd1 c false = 0#32) : c = 0#32 := by
  rw [upd1_false] at h
  cases hmsb : c.msb with
  | false =>
    have hshift : c <<< 1 = 0#32 := by rwa [hmsb] at h
    have hlt := BitVec.msb_eq_false_iff_two_mul_lt.mp hmsb
    bv_omega
  | true =>
    have hpoly : c <<< 1 = 0x04C11DB7#32 := BitVec.xor_eq_zero_iff.mp (by rwa [hmsb] at h)
    bv_omega

theorem upd1_false_inj (c d : Word) : upd1 c false = upd1 d false ↔ c = d :=
  calc upd1 c false = upd1 d false
    _ ↔ upd1 (c ^^^ d) false = 0#32 := by rw [upd1_false_xor, BitVec.xor_eq_zero_iff]
    _ ↔ c ^^^ d = 0#32 := ⟨eq_zero_of_upd1_false_eq_zero, fun h => by rw [h]; rfl⟩
    _ ↔ c = d := BitVec.xor_eq_zero_iff

theorem upd8_zero_byte_inj (c d : Word) : upd8 c 0x00#8 = upd8 d 0x00#8 ↔ c = d := by
  simp only [upd8_zero_byte, upd1_false_inj]

/-! One word -/

/-- A zero word is four zero bytes. -/
theorem updw_zero_word (c : Word) :
    updw c 0x00000000#32 = upd8 (upd8 (upd8 (upd8 c 0x00#8) 0x00#8) 0x00#8) 0x00#8 := rfl

theorem updw_zero_word_inj (c d : Word) : updw c 0x00000000#32 = updw d 0x00000000#32 ↔ c = d := by
  simp only [updw_zero_word, upd8_zero_byte_inj]

theorem getLsbD_byteOf (v : Word) (j : Fin 4) {i : Nat} (hi : i < 8) :
    (byteOf v j).getLsbD i = v.getLsbD (8 * j.val + i) := by
  rw [byteOf, BitVec.getLsbD_extractLsb', decide_eq_true hi, Bool.true_and]

/-- Each byte of a word comes to its top as the word is moved up by whole bytes. -/
theorem byteOf_three_shiftLeft_eq_rev (v : Word) (j : Fin 4) : byteOf (v <<< (8 * j.val)) 3 = byteOf v j.rev := by
  apply BitVec.eq_of_getLsbD_eq
  intro i hi
  have hthree : 8 * (3 : Fin 4).val = 24 := rfl
  rw [getLsbD_byteOf _ _ hi, getLsbD_byteOf _ _ hi, BitVec.getLsbD_shiftLeft, hthree, Fin.val_rev,
    decide_eq_true (by omega), decide_eq_false (by omega), Bool.not_false, Bool.true_and, Bool.true_and]
  congr 1
  omega

/-- `upd8_xor_top` four times over: each byte of `v` is fed as it comes to the top. -/
theorem updw_eq_xor (c v : Word) : updw c v = updw (c ^^^ v) 0x00000000#32 := by
  have hgone : v <<< 32 = 0#32 := BitVec.shiftLeft_eq_zero (by decide)
  have h2 : byteOf (v <<< 8) 3 = byteOf v 2 := byteOf_three_shiftLeft_eq_rev v 1
  have h1 : byteOf (v <<< 16) 3 = byteOf v 1 := byteOf_three_shiftLeft_eq_rev v 2
  have h0 : byteOf (v <<< 24) 3 = byteOf v 0 := byteOf_three_shiftLeft_eq_rev v 3
  rw [updw_zero_word]
  simp only [upd8_xor_top, ← BitVec.shiftLeft_add, Nat.reduceAdd, h2, h1, h0, hgone, BitVec.xor_zero, updw]

theorem updw_eq_updw_iff (c d v w : Word) : updw c v = updw d w ↔ c ^^^ v = d ^^^ w := by
  rw [updw_eq_xor c, updw_eq_xor d, updw_zero_word_inj]

theorem updw_left_inj (c d v : Word) : updw c v = updw d v ↔ c = d := by
  rw [updw_eq_updw_iff, BitVec.xor_left_inj]

theorem updw_right_inj (c v w : Word) : updw c v = updw c w ↔ v = w := by
  rw [updw_eq_updw_iff, BitVec.xor_right_inj]

end Sys2Proof.Machine
end

section
/-! SUPPORT. The packer (`42_frame_pack.md` R151): the CRC is a function of the three speeds, the four words of the
frame after `PACK` are the speeds and that CRC whatever the buffer held, and the words are all there is to a buffer. -/

namespace Sys2Proof.Machine

theorem exec_pack (s : State) : exec .pack s = .next (packOp s) := rfl

theorem eq_packOp_of_exec_pack {s t : State} (h : exec .pack s = .next t) : t = packOp s :=
  (Host.Outcome.next.inj h).symm

/-! The CRC of the speeds -/

/-- The input view of stored speeds is the registers most significant byte first (`20_memory.md` R54). -/
theorem crcView_packPayload (m : Memory) (v : Speeds) : (packPayload m v).crcView = speedsView v := by
  simp only [Memory.crcView, read_packPayload_0, read_packPayload_1, read_packPayload_2]
  rfl

theorem payloadCrc_packPayload (m : Memory) (v : Speeds) :
    payloadCrc (packPayload m v) = crc32m (speedsView v) := by
  rw [payloadCrc, crcView_packPayload]

/-- The CRC of the speeds is three word updates from the initial register (`20_memory.md` R54). -/
theorem crc32m_speedsView (v : Speeds) :
    crc32m (speedsView v) = updw (updw (updw 0xFFFFFFFF#32 v.s0) v.s1) v.s2 := by
  rw [crc32m_eq, speedsView, crcFrom_append, crcFrom_append, crcFrom_beBytes, crcFrom_beBytes, crcFrom_beBytes]

theorem packOp_crc_eq (s : State) : (packOp s).crc = crc32m (speedsView s.speeds) := by
  rw [packOp_crc, payloadCrc_packPayload]

@[simp] theorem packOp_speeds (s : State) : (packOp s).speeds = s.speeds := by
  rw [State.speeds, packOp_s0, packOp_s1, packOp_s2, State.speeds]

/-! The words of the frame -/

/-- The frame after `PACK` as its stores, with the CRC taken from the registers. -/
theorem packOp_frame_eq (s : State) :
    (packOp s).frame = (packPayload s.frame s.speeds).storeWord 3 (crc32m (speedsView s.speeds)) := by
  rw [packOp_frame, payloadCrc_packPayload]

@[simp] theorem loadWord_packOp_0 (s : State) : (packOp s).frame.loadWord 0 = s.s0 := by
  rw [packOp_frame_eq, Memory.loadWord_storeWord_other _ _ (by decide), loadWord_packPayload_0, State.speeds]

@[simp] theorem loadWord_packOp_1 (s : State) : (packOp s).frame.loadWord 1 = s.s1 := by
  rw [packOp_frame_eq, Memory.loadWord_storeWord_other _ _ (by decide), loadWord_packPayload_1, State.speeds]

@[simp] theorem loadWord_packOp_2 (s : State) : (packOp s).frame.loadWord 2 = s.s2 := by
  rw [packOp_frame_eq, Memory.loadWord_storeWord_other _ _ (by decide), loadWord_packPayload_2, State.speeds]

@[simp] theorem loadWord_packOp_3 (s : State) :
    (packOp s).frame.loadWord 3 = crc32m (speedsView s.speeds) := by
  rw [packOp_frame_eq, Memory.loadWord_storeWord_same]

/-! A buffer is its four words -/

/-- A byte of the buffer is a byte of its word. -/
theorem Memory.read_frameOffset (m : Memory) (k j : Fin 4) : m.read (frameOffset k j) = byteOf (m.loadWord k) j := by
  rw [Memory.loadWord, byteOf_wordOf]
  fin_cases j <;> rfl

/-- Two canonical contents with the same four words are equal. -/
theorem Memory.ext_loadWord {m n : Memory} (hm : m.wf) (hn : n.wf) (h : ∀ k, m.loadWord k = n.loadWord k) :
    m = n := by
  refine Memory.ext_read hm hn fun a => ?_
  obtain ⟨k, j, rfl⟩ := exists_frameOffset a
  rw [Memory.read_frameOffset, Memory.read_frameOffset, h]

theorem leBytes_loadWord (m : Memory) (k : Fin 4) :
    leBytes (m.loadWord k) = [m.read (frameOffset k 0), m.read (frameOffset k 1), m.read (frameOffset k 2),
      m.read (frameOffset k 3)] := by
  simp only [leBytes, Memory.read_frameOffset]

/-- The sixteen bytes are the four words, each least significant byte first (`20_memory.md` R51, R52). -/
theorem holdsFrame_loadWord (m : Memory) :
    HoldsFrame m { s0 := m.loadWord 0, s1 := m.loadWord 1, s2 := m.loadWord 2 } (m.loadWord 3) := by
  simp only [HoldsFrame, leBytes_loadWord]
  rfl

theorem holdsFrame_packOp (s : State) :
    HoldsFrame (packOp s).frame s.speeds (crc32m (speedsView s.speeds)) := by
  have h := holdsFrame_loadWord (packOp s).frame
  rw [loadWord_packOp_0, loadWord_packOp_1, loadWord_packOp_2, loadWord_packOp_3] at h
  exact h

/-- Packing again stores the words that are there. -/
theorem packOp_packOp_frame {s : State} (h : s.frame.wf) : (packOp (packOp s)).frame = (packOp s).frame := by
  refine Memory.ext_loadWord (packOp_frame_wf (packOp_frame_wf h)) (packOp_frame_wf h) fun k => ?_
  match k with
  | 0 => rw [loadWord_packOp_0, loadWord_packOp_0, packOp_s0]
  | 1 => rw [loadWord_packOp_1, loadWord_packOp_1, packOp_s1]
  | 2 => rw [loadWord_packOp_2, loadWord_packOp_2, packOp_s2]
  | 3 => rw [loadWord_packOp_3, loadWord_packOp_3, packOp_speeds]

theorem packOp_packOp {s : State} (h : s.frame.wf) : packOp (packOp s) = packOp s := by
  have hcrc : (packOp (packOp s)).crc = (packOp s).crc := by
    rw [packOp_crc_eq, packOp_crc_eq, packOp_speeds]
  exact State.ext_fields (packOp_x _) (packOp_y _) (packOp_w _) (packOp_s0 _) (packOp_s1 _) (packOp_s2 _) hcrc
    (packOp_packOp_frame h) ((packOp_fv _).trans (packOp_fv _).symm) (packOp_inputs _)

/-- The CRC of the example's input view (R151), and with bit 0 of `S0` flipped (R157), bit by bit. -/
theorem crcFrom_view_examples :
    crcFrom 0xFFFFFFFF#32 [0x3F#8, 0xC0#8, 0x00#8, 0x00#8, 0xC0#8, 0x10#8, 0x00#8, 0x00#8, 0x00#8, 0x00#8, 0x00#8,
      0x00#8] = 0x01ADF487#32 ∧
    crcFrom 0xFFFFFFFF#32 [0x3F#8, 0xC0#8, 0x00#8, 0x01#8, 0xC0#8, 0x10#8, 0x00#8, 0x00#8, 0x00#8, 0x00#8, 0x00#8,
      0x00#8] = 0xF3AD5EE1#32 := by
  simp only [crcFrom_cons, crcFrom_nil, upd8_eq, upd1_eq_cond, BitVec.reduceGetLsb, Bool.xor_true, Bool.xor_false,
    Bool.xor_self, Bool.not_false, cond_true, cond_false, BitVec.reduceHShiftLeft, BitVec.reduceXOr, and_self]

theorem crc32m_speedsView_examples :
    crc32m (speedsView { s0 := 0x3FC00000#32, s1 := 0xC0100000#32, s2 := 0x00000000#32 }) = 0x01ADF487#32 ∧
    crc32m (speedsView { s0 := 0x3FC00001#32, s1 := 0xC0100000#32, s2 := 0x00000000#32 }) = 0xF3AD5EE1#32 := by
  rw [crc32m_eq, crc32m_eq]
  exact crcFrom_view_examples

/-- Settles O33: what each of the first three words of the frame loads as after `PACK`. -/
theorem packKeepsThePayloadBits : Obligations.PackKeepsThePayloadBits :=
  fun s => ⟨packOp s, exec_pack s, loadWord_packOp_0 s, loadWord_packOp_1 s, loadWord_packOp_2 s⟩

/-- Settles O31: the bytes are those of the four words of the frame; the example is that with its CRC evaluated; a
second `PACK` finds the same speeds and so stores the four words that are there. -/
theorem packBuildsTheFrame : Obligations.PackBuildsTheFrame := by
  obtain ⟨hvalue, -⟩ := crc32m_speedsView_examples
  refine ⟨fun imm => ?_, fun s => ?_, fun s t h => ?_, fun s t hwf h => ?_⟩
  · obtain ⟨-, -, -, -, hpack, -⟩ := decode_use_none imm
    exact hpack
  · exact ⟨packOp s, exec_pack s, holdsFrame_packOp s, packOp_crc_eq s, packOp_fv s, packOp_x s, packOp_y s,
      packOp_w s, packOp_s0 s, packOp_s1 s, packOp_s2 s, packOp_inputs s⟩
  · obtain rfl := eq_packOp_of_exec_pack h
    have hframe := holdsFrame_packOp { s with s0 := 0x3FC00000#32, s1 := 0xC0100000#32, s2 := 0x00000000#32 }
    simp only [State.speeds, hvalue] at hframe
    exact ⟨(packOp_crc_eq _).trans hvalue, hframe⟩
  · obtain rfl := eq_packOp_of_exec_pack h
    rw [exec_pack, packOp_packOp hwf]

end Sys2Proof.Machine
end

section
/-! SUPPORT. The integrity property of the frame (`42_frame_pack.md` R157): a flip is in one of the three words fed, and
a word update tells both its arguments apart. -/

namespace Sys2Proof.Machine

/-- A word with one bit flipped is another word. -/
theorem xor_bit_ne (v : Word) (b : Fin 32) : v ^^^ (0x00000001#32 <<< b.val) ≠ v := by
  have hbit : ∀ b : Fin 32, 0x00000001#32 <<< b.val ≠ 0#32 := by decide
  intro h
  exact hbit b ((BitVec.xor_right_inj v).mp (h.trans BitVec.xor_zero.symm))

/-- The CRC word of the packed frame, as the three word updates. -/
theorem loadWord_three_of_exec_pack {s t : State} (h : exec .pack s = .next t) :
    t.frame.loadWord 3 = updw (updw (updw 0xFFFFFFFF#32 s.s0) s.s1) s.s2 := by
  obtain rfl := eq_packOp_of_exec_pack h
  rw [loadWord_packOp_3, crc32m_speedsView, State.speeds]

/-- Settles O37: equal CRC words would be traced back, past the words fed after the flipped one, to that word and its
flip being equal. -/
theorem frameCrcDetectsPayloadBitFlips : Obligations.FrameCrcDetectsPayloadBitFlips := by
  obtain ⟨-, hflipped⟩ := crc32m_speedsView_examples
  refine ⟨fun s t t' b h h' heq => ?_, hflipped⟩
  rw [loadWord_three_of_exec_pack h] at heq
  rcases h' with h0 | h1 | h2
  · rw [loadWord_three_of_exec_pack h0, updw_left_inj, updw_left_inj, updw_right_inj] at heq
    exact xor_bit_ne _ b heq
  · rw [loadWord_three_of_exec_pack h1, updw_left_inj, updw_right_inj] at heq
    exact xor_bit_ne _ b heq
  · rw [loadWord_three_of_exec_pack h2, updw_right_inj] at heq
    exact xor_bit_ne _ b heq

end Sys2Proof.Machine
end

section
/-! SUPPORT. Runs of commands (`10_state.md` R27): one run after another, and what a final `PACK` or `TICK` makes of a
run. `PACK` frames whatever the speeds are by then, and `KIN` forgets the speeds it finds; this is the whole of the
sequencing rules (`44_sequencing.md` R200, R202). -/

namespace Sys2Proof.Machine

theorem exec_kin (s : State) : exec .kin s = .next (kinOp referenceKin s) := rfl

theorem exec_tick (s : State) : exec .tick s = .next (tickOp referenceKin s) := rfl

theorem exec_stop (s : State) : exec .stop s = .next (packOp (clearMotion s)) := rfl

theorem exec_ldS0 (v : Word) (s : State) : exec (.ldS0 v) s = .next (s.setS0 v) := rfl

theorem exec_ldS1 (v : Word) (s : State) : exec (.ldS1 v) s = .next (s.setS1 v) := rfl

theorem exec_ldS2 (v : Word) (s : State) : exec (.ldS2 v) s = .next (s.setS2 v) := rfl

/-- A run that answers a next state has taken its first command to one. -/
theorem runInstrs_cons_eq_next {i : Instr} {is : List Instr} {s t : State} (h : runInstrs (i :: is) s = .next t) :
    ∃ u, exec i s = .next u ∧ runInstrs is u = .next t := by
  cases hi : exec i s with
  | next u => exact ⟨u, rfl, (runInstrs_cons hi is).symm.trans h⟩
  | fault e => simp [runInstrs, hi] at h
  | refused r => simp [runInstrs, hi] at h

theorem runInstrs_singleton {i : Instr} {s t : State} (h : exec i s = .next t) : runInstrs [i] s = .next t :=
  (runInstrs_cons h []).trans (runInstrs_nil t)

/-- A run goes on from where its first part ended. -/
theorem runInstrs_append {is : List Instr} {s t : State} (h : runInstrs is s = .next t) (js : List Instr) :
    runInstrs (is ++ js) s = runInstrs js t := by
  induction is generalizing s with
  | nil =>
    obtain rfl := Host.Outcome.next.inj h
    rfl
  | cons i is ih =>
    obtain ⟨u, hi, hrest⟩ := runInstrs_cons_eq_next h
    rw [List.cons_append, runInstrs_cons hi, ih hrest]

/-- A final `PACK` frames whatever the speeds are by then (R202). -/
theorem exists_frame_of_pack_last {is : List Instr} {s u : State} (h : runInstrs is s = .next u) :
    ∃ t, runInstrs (is ++ [Instr.pack]) s = .next t ∧
      t.frame.loadWord 0 = u.s0 ∧ t.frame.loadWord 1 = u.s1 ∧ t.frame.loadWord 2 = u.s2 :=
  ⟨packOp u, (runInstrs_append h [.pack]).trans (runInstrs_singleton (exec_pack u)),
    loadWord_packOp_0 u, loadWord_packOp_1 u, loadWord_packOp_2 u⟩

/-- A run of `KIN` and one more command. -/
theorem runInstrs_kin_then {i : Instr} {s t : State} (h : exec i (kinOp referenceKin s) = .next t) :
    runInstrs [.kin, i] s = .next t :=
  (runInstrs_cons (exec_kin s) [i]).trans (runInstrs_singleton h)

/-! `TICK` -/

theorem tickOp_eq (c : KinConfig) (s : State) : tickOp c s = packOp (kinOp c s) := rfl

/-- `TICK` is `KIN` and then `PACK` (R200). -/
theorem runInstrs_kin_pack (s : State) : runInstrs [.kin, .pack] s = .next (tickOp referenceKin s) :=
  runInstrs_kin_then (exec_pack _)

theorem tickOp_speeds (s : State) : (tickOp referenceKin s).speeds = kinDatapath referenceRom s.x s.y s.w := by
  rw [tickOp_eq, packOp_speeds, kinOp_speeds, referenceKin_kin32]

theorem holdsFrame_tickOp (s : State) :
    HoldsFrame (tickOp referenceKin s).frame (tickOp referenceKin s).speeds
      (crc32m (speedsView (tickOp referenceKin s).speeds)) := by
  rw [tickOp_eq, packOp_speeds]
  exact holdsFrame_packOp _

theorem tickOp_crc (s : State) :
    (tickOp referenceKin s).crc = crc32m (speedsView (tickOp referenceKin s).speeds) := by
  rw [tickOp_eq, packOp_crc_eq, packOp_speeds]

/-- The first three words of a ticked frame are the kinematics of the intent. -/
theorem loadWord_tickOp (s : State) :
    (tickOp referenceKin s).frame.loadWord 0 = (kinDatapath referenceRom s.x s.y s.w).s0 ∧
    (tickOp referenceKin s).frame.loadWord 1 = (kinDatapath referenceRom s.x s.y s.w).s1 ∧
    (tickOp referenceKin s).frame.loadWord 2 = (kinDatapath referenceRom s.x s.y s.w).s2 := by
  simp only [tickOp_eq, loadWord_packOp_0, loadWord_packOp_1, loadWord_packOp_2, kinOp_s0, kinOp_s1, kinOp_s2,
    referenceKin_kin32, and_self]

/-- The speeds of the example of R200: 0.1 straight ahead. -/
theorem kinDatapath_tick_example :
    kinDatapath referenceRom 0x3DCCCCCD#32 0x00000000#32 0x00000000#32 =
      { s0 := 0xBEE8D22A#32, s1 := 0xBEE8D22A#32, s2 := 0x3F68D22A#32 } := by
  decide

/-- The CRC of the example's input view, bit by bit. -/
theorem crc32m_tick_example :
    crc32m (speedsView { s0 := 0xBEE8D22A#32, s1 := 0xBEE8D22A#32, s2 := 0x3F68D22A#32 }) = 0x2D226A66#32 := by
  rw [crc32m_eq]
  change crcFrom 0xFFFFFFFF#32 [0xBE#8, 0xE8#8, 0xD2#8, 0x2A#8, 0xBE#8, 0xE8#8, 0xD2#8, 0x2A#8, 0x3F#8, 0x68#8, 0xD2#8,
    0x2A#8] = _
  simp only [crcFrom_cons, crcFrom_nil, upd8_eq, upd1_eq_cond, BitVec.reduceGetLsb, Bool.xor_true, Bool.xor_false,
    Bool.xor_self, Bool.not_false, cond_true, cond_false, BitVec.reduceHShiftLeft, BitVec.reduceXOr]

/-- Settles O49: `TICK` is the packer on the kinematics, so each part is what the packer does at the new speeds; the
example evaluates the datapath and the CRC. -/
theorem tickIsKinThenPack : Obligations.TickIsKinThenPack := by
  refine ⟨fun imm => ?_, fun s => ?_, fun s t hx hy hw h => ?_⟩
  · obtain ⟨-, -, -, -, -, htick⟩ := decode_use_none imm
    exact htick
  · exact ⟨tickOp referenceKin s, exec_tick s, runInstrs_kin_pack s, tickOp_speeds s, holdsFrame_tickOp s,
      tickOp_crc s, packOp_fv _, packOp_x _, packOp_y _, packOp_w _, packOp_inputs _⟩
  · obtain rfl := Host.Outcome.next.inj ((exec_tick s).symm.trans h)
    have hspeeds := tickOp_speeds s
    rw [hx, hy, hw, kinDatapath_tick_example] at hspeeds
    have hcrc := tickOp_crc s
    have hframe := holdsFrame_tickOp s
    rw [hspeeds, crc32m_tick_example] at hcrc hframe
    exact ⟨congrArg Speeds.s0 hspeeds, congrArg Speeds.s1 hspeeds, congrArg Speeds.s2 hspeeds, hcrc, hframe⟩

/-! The last writer of the speeds -/

/-- The kinematics overwrites whatever speeds were there. -/
theorem kinOp_setSpeeds (c : KinConfig) (s : State) (v : Speeds) : kinOp c (s.setSpeeds v) = kinOp c s := rfl

theorem tickOp_setSpeeds (c : KinConfig) (s : State) (v : Speeds) : tickOp c (s.setSpeeds v) = tickOp c s := by
  rw [tickOp_eq, kinOp_setSpeeds, tickOp_eq]

theorem runInstrs_speedLoads (a b c : Word) (s : State) :
    runInstrs [.ldS0 a, .ldS1 b, .ldS2 c] s = .next (s.setSpeeds { s0 := a, s1 := b, s2 := c }) := by
  rw [runInstrs_cons (exec_ldS0 a s), runInstrs_cons (exec_ldS1 b _), runInstrs_singleton (exec_ldS2 c _)]
  rfl

/-- Settles O53: every run ends in the packer, whose frame holds the speeds of that moment. After `KIN` a load changes
its own speed and no other; before `KIN` or `TICK` it changes nothing that is left. -/
theorem lastWriterOfSpeedsWins : Obligations.LastWriterOfSpeedsWins := by
  refine fun s => ⟨fun v => ⟨?_, ?_, ?_⟩, fun a b c => ⟨?_, ?_, ?_⟩⟩
  · exact exists_frame_of_pack_last (runInstrs_kin_then (exec_ldS0 v _))
  · exact exists_frame_of_pack_last (runInstrs_kin_then (exec_ldS1 v _))
  · exact exists_frame_of_pack_last (runInstrs_kin_then (exec_ldS2 v _))
  · have hrun : runInstrs [.kin, .ldS0 a, .ldS1 b, .ldS2 c] s =
        .next ((kinOp referenceKin s).setSpeeds { s0 := a, s1 := b, s2 := c }) :=
      (runInstrs_cons (exec_kin s) _).trans (runInstrs_speedLoads a b c _)
    exact exists_frame_of_pack_last hrun
  · refine ⟨tickOp referenceKin s, ?_, tickOp_speeds s, loadWord_tickOp s⟩
    exact (runInstrs_append (runInstrs_speedLoads a b c s) [.kin, .pack]).trans
      ((runInstrs_kin_pack _).trans (congrArg _ (tickOp_setSpeeds _ s _)))
  · refine ⟨tickOp referenceKin s, ?_, tickOp_speeds s, loadWord_tickOp s⟩
    exact (runInstrs_append (runInstrs_speedLoads a b c s) [.tick]).trans
      ((exec_tick _).trans (congrArg _ (tickOp_setSpeeds _ s _)))

end Sys2Proof.Machine
end

section
/-! SUPPORT. `STOP` (`44_sequencing.md` R201): packing a state whose motion is cleared gives the zero-speed frame, and
from a canonical buffer always the same state, in which clearing the motion or computing it again changes nothing. -/

namespace Sys2Proof.Machine

/-- +0.0 for each wheel. -/
def zeroSpeeds : Speeds := { s0 := 0x00000000#32, s1 := 0x00000000#32, s2 := 0x00000000#32 }

/-- The result of `STOP` from a canonical buffer: the reset state but for the frame, `CRC` and `FV`. -/
def stoppedState (l : List PortSample) : State :=
  { State.reset with
    crc := 0x099C5421#32, fv := true, inputs := l
    frame := [(12, 0x21#8), (13, 0x54#8), (14, 0x9C#8), (15, 0x09#8)] }

theorem stoppedState_frame_wf (l : List PortSample) : (stoppedState l).frame.wf := by
  change Memory.wf [(12, 0x21#8), (13, 0x54#8), (14, 0x9C#8), (15, 0x09#8)]
  decide

/-! The CRC of speeds that are zeros -/

theorem crc32m_speedsView_zero : crc32m (speedsView zeroSpeeds) = 0x099C5421#32 :=
  crc32m_twelve_zero_bytes

/-- A sign bit in the first speed fed tells the frame from the zero-speed frame: the words fed after it are the same. -/
theorem crc32m_speedsView_negZero_ne :
    crc32m (speedsView { s0 := 0x80000000#32, s1 := 0x00000000#32, s2 := 0x00000000#32 }) ≠ 0x099C5421#32 := by
  rw [← crc32m_speedsView_zero, crc32m_speedsView, crc32m_speedsView, zeroSpeeds, Ne, updw_left_inj, updw_left_inj,
    updw_right_inj]
  decide

/-! The packer on cleared motion -/

theorem clearMotion_speeds (s : State) : (clearMotion s).speeds = zeroSpeeds := rfl

theorem packOp_clearMotion_crc (s : State) : (packOp (clearMotion s)).crc = 0x099C5421#32 := by
  rw [packOp_crc_eq, clearMotion_speeds, crc32m_speedsView_zero]

/-- The bytes of the zero-speed frame, whatever the buffer held. -/
theorem frameBytes_packOp_clearMotion (s : State) :
    frameBytes (packOp (clearMotion s)).frame = List.replicate 12 0x00#8 ++ [0x21#8, 0x54#8, 0x9C#8, 0x09#8] := by
  have hframe := holdsFrame_packOp (clearMotion s)
  rw [clearMotion_speeds, crc32m_speedsView_zero] at hframe
  exact hframe

/-- Two canonical buffers with the same sixteen bytes are equal. -/
theorem Memory.ext_frameBytes {m n : Memory} (hm : m.wf) (hn : n.wf) (h : frameBytes m = frameBytes n) : m = n :=
  Memory.ext_read hm hn fun a => List.map_inj_left.mp h a (List.mem_finRange a)

/-- From a canonical buffer the result is one fixed state. -/
theorem packOp_clearMotion {s : State} (hwf : s.frame.wf) : packOp (clearMotion s) = stoppedState s.inputs := by
  have hframe : (packOp (clearMotion s)).frame = (stoppedState s.inputs).frame :=
    Memory.ext_frameBytes (packOp_frame_wf hwf) (stoppedState_frame_wf _) (frameBytes_packOp_clearMotion s)
  exact State.ext_fields (clearMotion_x s) (clearMotion_y s) (clearMotion_w s) (clearMotion_s0 s) (clearMotion_s1 s)
    (clearMotion_s2 s) (packOp_clearMotion_crc s) hframe (packOp_fv _) (packOp_inputs _)

theorem exec_stop_of_wf {s : State} (hwf : s.frame.wf) : exec .stop s = .next (stoppedState s.inputs) := by
  rw [exec_stop, packOp_clearMotion hwf]

/-! `TICK` on cleared motion -/

/-- At zero intent the products are zeros and their sums are +0.0 in every lane. -/
theorem kinDatapath_zero : kinDatapath referenceRom 0x00000000#32 0x00000000#32 0x00000000#32 = zeroSpeeds := by
  decide

/-- The kinematics of cleared motion is the zero speeds that are there: `TICK` does not resume the old motion. -/
theorem kinOp_clearMotion (s : State) : kinOp referenceKin (clearMotion s) = clearMotion s :=
  calc kinOp referenceKin (clearMotion s)
    _ = (clearMotion s).setSpeeds (kinDatapath referenceRom 0x00000000#32 0x00000000#32 0x00000000#32) := rfl
    _ = (clearMotion s).setSpeeds zeroSpeeds := by rw [kinDatapath_zero]
    _ = clearMotion s := rfl

theorem clearMotion_stoppedState (l : List PortSample) : clearMotion (stoppedState l) = stoppedState l := rfl

theorem exec_tick_stoppedState (l : List PortSample) : exec .tick (stoppedState l) = .next (stoppedState l) :=
  calc exec .tick (stoppedState l)
    _ = .next (packOp (kinOp referenceKin (clearMotion (stoppedState l)))) := by
      rw [exec_tick, tickOp_eq, clearMotion_stoppedState]
    _ = .next (packOp (clearMotion (stoppedState l))) := by rw [kinOp_clearMotion]
    _ = .next (stoppedState l) := by rw [packOp_clearMotion (stoppedState_frame_wf l)]; rfl

/-- Settles O51: `STOP` packs cleared motion. From a canonical buffer that gives the stopped state, itself canonical and
with its motion clear, so a second `STOP` and a `TICK` pack the same again. -/
theorem stopBuildsTheZeroSpeedFrame : Obligations.StopBuildsTheZeroSpeedFrame := by
  refine ⟨fun imm => ?_, fun s => ?_, fun s hwf => ?_, crc32m_speedsView_negZero_ne⟩
  · obtain ⟨-, hstop, -⟩ := decode_use_none imm
    exact hstop
  · exact ⟨packOp (clearMotion s), exec_stop s, clearMotion_x s, clearMotion_y s, clearMotion_w s, clearMotion_s0 s,
      clearMotion_s1 s, clearMotion_s2 s, packOp_clearMotion_crc s, packOp_fv _, packOp_inputs _,
      frameBytes_packOp_clearMotion s⟩
  · exact ⟨exec_stop_of_wf hwf, exec_stop_of_wf (stoppedState_frame_wf _), exec_tick_stoppedState _⟩

end Sys2Proof.Machine
end
